-- ==== Sys2Proof/Word.lean ====
section
/-! DEFINITION. The word types of NBPE (00_scope.md R11, R21): bus bytes, 32-bit addresses, 64-bit operation descriptors. -/

namespace Sys2Proof

/-- A bus byte, 8 bits unsigned (R21). -/
abbrev Byte := BitVec 8

/-- A 32-bit unsigned operand: linear address, byte count, page or block index (R108, R203). -/
abbrev Word := BitVec 32

/-- The operation descriptor the host presents (R100). -/
abbrev Descriptor := BitVec 64

/-- A bit position 0..7 inside a bus byte (R103, R109). -/
abbrev PinPos := BitVec 3

end Sys2Proof
end

