-- ==== Sys2Proof/Syntax.lean ====
section
/-! DEFINITION. The names of NBPE (buses, signals, directions, delay points) and its operation set: one constructor of `Instr`
per row of spec/opcode_table.json (00_scope.md R2, 30_encoding.md R110), and the pseudo-operations of R126. -/

namespace Sys2Proof

/-- The two buses (R103): 0 = I/O bus, 1 = control bus. -/
inductive Bus where
  | io
  | ctl
  deriving DecidableEq, Repr

/-- The direction of the I/O bus (R33, R105): IN or OUT. -/
inductive Dir where
  | input
  | output
  deriving DecidableEq, Repr

/-- The eight signals of the control bus (R38 to R45). -/
inductive CtlSignal where
  | cle
  | ale
  | nce
  | nwe
  | nre
  | nwp
  | rdy
  | led
  deriving DecidableEq, Repr

/-- The eight control signals in the order the source lists them (R13). -/
def CtlSignal.all : List CtlSignal := [.cle, .ale, .nce, .nwe, .nre, .nwp, .rdy, .led]

/-- The five delay points of the engine (R14). -/
inductive DelayPoint where
  | settle
  | setup
  | whold
  | access
  | rhold
  deriving DecidableEq, Repr

/-- The fourteen operations (R110) with their operands (R103 to R109). `addrlatch` takes a list of any length, as the abstract
operation does (R109); how many bytes a descriptor can carry is `WellFormed`'s concern. -/
inductive Instr where
  /-- SETPIN bus, pin, on (R141). -/
  | setpin (bus : Bus) (pin : PinPos) (on : Bool)
  /-- FLUSH bus (R142). -/
  | flush (bus : Bus)
  /-- READ bus (R143). -/
  | read (bus : Bus)
  /-- SETDIR dir (R144). -/
  | setdir (dir : Dir)
  /-- CMDLATCH cmd (R162). -/
  | cmdlatch (cmd : Byte)
  /-- ADDRLATCH bytes, first latched first (R165). -/
  | addrlatch (bytes : List Byte)
  /-- LATCHOUT n (R168). -/
  | latchout (n : Word)
  /-- BUSYPOLL (R171). -/
  | busypoll
  /-- MAP address (R200). -/
  | map (address : Word)
  /-- IDENTIFY (R210). -/
  | identify
  /-- PAGEREAD page (R212). -/
  | pageread (page : Word)
  /-- DUMP (R215). -/
  | dump
  /-- ERASE block (R218). -/
  | erase (block : Word)
  /-- PROGRAM (R224). -/
  | program
  deriving DecidableEq, Repr

/-- The mnemonic of R110. -/
def Instr.mnemonic : Instr → String
  | .setpin _ _ _ => "SETPIN"
  | .flush _ => "FLUSH"
  | .read _ => "READ"
  | .setdir _ => "SETDIR"
  | .cmdlatch _ => "CMDLATCH"
  | .addrlatch _ => "ADDRLATCH"
  | .latchout _ => "LATCHOUT"
  | .busypoll => "BUSYPOLL"
  | .map _ => "MAP"
  | .identify => "IDENTIFY"
  | .pageread _ => "PAGEREAD"
  | .dump => "DUMP"
  | .erase _ => "ERASE"
  | .program => "PROGRAM"

/-- The family FO operations (R110), which exist only with `HAS_FLASH_MACROS` (R20). -/
def Instr.isMacro : Instr → Bool
  | .setpin _ _ _ => false
  | .flush _ => false
  | .read _ => false
  | .setdir _ => false
  | .cmdlatch _ => false
  | .addrlatch _ => false
  | .latchout _ => false
  | .busypoll => false
  | .map _ => false
  | .identify => true
  | .pageread _ => true
  | .dump => true
  | .erase _ => true
  | .program => true

/-- The pseudo-operations of the assembler (R126). -/
inductive Pseudo where
  /-- RAISE S. -/
  | raise (signal : CtlSignal)
  /-- LOWER S. -/
  | lower (signal : CtlSignal)
  /-- DRIVE b. -/
  | drive (b : Byte)
  /-- INIT, the boot sequence of R285. -/
  | init
  deriving DecidableEq, Repr

end Sys2Proof
end

