-- ==== Sys2Proof/Config.lean ====
section
/-! DEFINITION. The implementation parameters of 00_scope.md R12 to R20 (configuration, never state: R59), their values as the
spec gives them, and the free values: constants with no body, so that nothing can be proved of what they are. -/

namespace Sys2Proof

/-- The parameters of R12 to R20. Every definition of the machine takes one; `exec` and `step` take `Config.standard`. -/
structure Config where
  /-- `PAGE_BYTES` (R12). -/
  pageBytes : Nat
  /-- `PAGE_USABLE` (R12). -/
  pageUsable : Nat
  /-- `PAGES_PER_BLOCK` (R12). -/
  pagesPerBlock : Nat
  /-- `TOTAL_BLOCKS` (R12). -/
  totalBlocks : Nat
  /-- `N_PAGES` (R12): a field of its own, so that a small dump can be run (decision D23). -/
  nPages : Nat
  /-- `PINMAP` of the control bus (R13). -/
  pin : CtlSignal → PinPos
  /-- `T_SETTLE`, `T_SETUP`, `T_WHOLD`, `T_ACCESS`, `T_RHOLD` (R14), which no rule reads. -/
  delayTime : DelayPoint → Nat
  /-- `ID_EXPECTED`, five bytes (R15). -/
  idExpected : Vector Byte 5
  /-- `POLL_LIMIT` (R16). -/
  pollLimit : Option Nat
  /-- `BUSYPOLL_NCE_CHECK` (R17). -/
  busypollNceCheck : Bool
  /-- `DIRMASK_OUT` (R18), which no rule reads. -/
  dirmaskOut : Byte
  /-- `DIRMASK_IN` (R18), which no rule reads. -/
  dirmaskIn : Byte
  /-- `READ_STRIDE` (R19). -/
  readStride : Nat
  /-- `ERASE_PAGE_BYTES` (R19). -/
  erasePageBytes : Nat
  /-- `HAS_FLASH_MACROS` (R20). -/
  hasFlashMacros : Bool

/-- FREE VALUE. `ID_EXPECTED`: the source gives no signature (R15, N2, U12); log entry 5. -/
opaque Config.idSignature : Vector Byte 5

/-- FREE VALUE. The five delay times: the source gives no number (R14, N3, U18); log entry 5. -/
opaque Config.delayMicros : DelayPoint → Nat

/-- FREE VALUE. What the device answers to the n-th unscripted `TRead(IO)` (D18, U4, U7); log entry 4. -/
opaque Config.freeDioByte : Nat → Byte

/-- FREE VALUE. What is read by the n-th unscripted `TRead(CTL)` (D18, U5, U16); log entry 4. -/
opaque Config.freeCtlByte : Nat → Byte

/-- FREE VALUE. Whether the n-th unscripted transport call succeeds (R9); log entry 4. -/
opaque Config.freeAnswer : Nat → Bool

/-- The default `PINMAP` (R13, decision D1): the listing order. -/
def Config.listingOrder : CtlSignal → PinPos
  | .cle => 0
  | .ale => 1
  | .nce => 2
  | .nwe => 3
  | .nre => 4
  | .nwp => 5
  | .rdy => 6
  | .led => 7

/-- The parameters at the values the spec gives them. -/
def Config.standard : Config where
  pageBytes := 2112
  pageUsable := 2048
  pagesPerBlock := 64
  totalBlocks := 4096
  nPages := 262144
  pin := Config.listingOrder
  delayTime := Config.delayMicros
  idExpected := Config.idSignature
  pollLimit := none
  busypollNceCheck := true
  dirmaskOut := 0xFF
  dirmaskIn := 0x00
  readStride := 2112
  erasePageBytes := 2048
  hasFlashMacros := true

/-- What R13 and R16 ask of a choice of parameters: distinct pins, and a poll limit that is a positive integer. -/
def Config.wellFormed (c : Config) : Bool :=
  decide (CtlSignal.all.map c.pin).Nodup && c.pollLimit != some 0

end Sys2Proof
end

