-- ==== Sys2Proof/Machine/Operands.lean ====
section
/-! DEFINITION. Operand forms: the bits of a bus byte, the address-cycle mapper (42_address_mapper.md), the two address
calculations (43_flash_operations.md R212, R218) and the NAND command bytes (30_encoding.md R124). -/

namespace Sys2Proof.Machine

/-- A byte with one bit set to a level, the other seven kept (R141, R23). -/
def setBit (v : Byte) (i : PinPos) (on : Bool) : Byte :=
  if on then v ||| 1#8 <<< i.toNat else v &&& ~~~(1#8 <<< i.toNat)

/-- `v[S]` for a control signal S: the bit at PINMAP(S) (R21). -/
def signal (c : Config) (v : Byte) (S : CtlSignal) : Bool := v.getLsbD (c.pin S).toNat

/-- `v` with the bit of a control signal at a level: `CTL.shadow[S] <- level` (R22). -/
def setSignal (c : Config) (v : Byte) (S : CtlSignal) (level : Bool) : Byte := setBit v (c.pin S) level

/-- `CTL_DIRMASK` (R18): every control pin an output but RDY. -/
def ctlDirmask (c : Config) : Byte := setSignal c 0xFF .rdy false

/-- The direction mask a configure call carries (R22). -/
def dirMask (c : Config) : Dir → Byte
  | .input => c.dirmaskIn
  | .output => c.dirmaskOut

/-- The Address Cycle Set of a linear address, cycle 0 first (R200). -/
def mapCycles (a : Word) : List Byte :=
  [a.extractLsb' 0 8, (a.extractLsb' 8 4).setWidth 8, a.extractLsb' 12 8, a.extractLsb' 20 8,
    (a.extractLsb' 28 2).setWidth 8]

/-- The linear address of PAGEREAD p: trunc_32(p × READ_STRIDE) (R212, R203). -/
def readAddress (c : Config) (p : Word) : Word := BitVec.ofNat 32 (p.toNat * c.readStride)

/-- The linear address of ERASE b: trunc_32(ERASE_PAGE_BYTES × PAGES_PER_BLOCK × b) (R218, R203). -/
def eraseAddress (c : Config) (b : Word) : Word :=
  BitVec.ofNat 32 (c.erasePageBytes * c.pagesPerBlock * b.toNat)

/-- The three row cycles, cycles 2 to 4, that ERASE latches (R218). -/
def rowCycles (a : Word) : List Byte := (mapCycles a).drop 2

/-- READID (R124). -/
def cmdReadId : Byte := 0x90

/-- READ setup (R124). -/
def cmdReadSetup : Byte := 0x00

/-- READ confirm (R124). -/
def cmdReadConfirm : Byte := 0x30

/-- erase-setup (R124). -/
def cmdEraseSetup : Byte := 0x60

/-- erase-confirm (R124). -/
def cmdEraseConfirm : Byte := 0xD0

/-- read-status (R124). -/
def cmdReadStatus : Byte := 0x70

/-- The one address cycle of the ID register (R73). -/
def idAddress : Byte := 0x00

/-- The length of the ID register (R11, R55). -/
def idBytes : Nat := 5

end Sys2Proof.Machine
end

