-- ==== Sys2Proof/Machine/State.lean ====
section
/-! DEFINITION. The state of NBPE, the ten components of 10_state.md R30, and beside it `Env`: what the other three agents of
00_scope.md R9 (host, device, transport) will do and have been told. All of it is plain data. -/

namespace Sys2Proof.Machine

/-- The cause a sticky fault holds (R47). -/
inductive SessionFault where
  | transport
  deriving DecidableEq, Repr

/-- The status of a response (R241). -/
inductive Status where
  | ok
  | precondition
  | transport
  | notImplemented
  | illegal
  | unresponsive
  | idMismatch
  | eraseFail
  deriving DecidableEq, Repr

/-- A response: a status and a list of data bytes (R49, R123). -/
structure Response where
  status : Status
  data : List Byte
  deriving DecidableEq, Repr

/-- The transport calls, as a `TFail` event names them (R46). -/
inductive TransportCall where
  | write (bus : Bus)
  | read (bus : Bus)
  | configIo
  deriving DecidableEq, Repr

/-- The events of the history H (R46). -/
inductive Event where
  | wrCtl (v : Byte)
  | wrIo (v : Byte)
  | rdCtl (v : Byte)
  | rdIo (v : Byte)
  | cfgIo (d : Dir)
  | delay (k : DelayPoint)
  | tfail (call : TransportCall)
  deriving DecidableEq, Repr

/-- The pseudocode variables of the operation being executed. None of them holds DUMP's bytes: these are the host's (R70, R215). -/
structure Locals where
  /-- BUSYPOLL's count of reads (R171). -/
  polls : Nat
  /-- `v` of READ (R143). -/
  value : List Byte
  /-- `out` of DUMP (R215), as the place in the host's stream where it starts. -/
  mark : Nat
  deriving DecidableEq, Repr

/-- What the variables hold when an operation starts. -/
def Locals.start : Locals := ⟨0, [], 0⟩

/-- The sequencer position (R50): Idle, or Run(op, k) with k the index of the next micro-step of op's micro-program. -/
inductive Sequencer where
  | idle
  | run (op : Instr) (k : Nat) (loc : Locals)
  deriving DecidableEq, Repr

/-- What the transport will answer to the coming calls (R8, R9): a direct-pin build never fails; otherwise a script of answers
(true = ok), after which each answer is a free value counted by `draws`. -/
inductive Link where
  | directPin
  | answers (script : List Bool) (draws : Nat)
  deriving DecidableEq, Repr

/-- What the coming reads of one bus will return (R269): the scripted bytes in order, after which each byte is a free value
counted by `draws`. -/
structure Channel where
  script : List Byte
  draws : Nat
  deriving DecidableEq, Repr

/-- The other agents of R9. None of it is state of NBPE (R30, R59). -/
@[ext]
structure Env where
  /-- The transport. -/
  link : Link
  /-- The device at the I/O bus pins. -/
  dioIn : Channel
  /-- The device (and the read-back of the pins) at the control bus. -/
  ctlIn : Channel
  /-- The direction the I/O bus has on the transport's side: what the last configure call set, none after one that failed (U6).
  Reset leaves it as it is (R282), so it can differ from `IO.dir`. -/
  lineDir : Option Dir
  /-- The reset input at the coming steps (R261, R282): none = not applied; some n = applied after n micro-steps from here, an
  operation in progress or not; an empty list = not applied (log entry 8). -/
  resetIn : List (Option Nat)
  /-- The descriptors the host has still to issue, in order (R307). -/
  program : List Descriptor
  /-- The responses the host has been handed, in order (R52, R307). -/
  responses : List Response
  /-- The output stream: the bytes of every page that DUMP has handed to the host, in order (R70, R75, R215). -/
  stream : List Byte
  deriving DecidableEq, Repr

/-- Why the machine stops with a fault. -/
inductive Fault where
  /-- Raised by `step` alone, in a state whose `seq` is a Run position at or past the end of the micro-program: R50 gives no step
  there. Safe: no state that a step leaves is such a state (`SeqOk` in Safety.lean). -/
  | seqPastEnd
  deriving DecidableEq, Repr

/-- Why the machine refuses. -/
inductive Refusal where
  /-- An instruction with no meaning yet; raised by `exec`'s arm alone, and by none of them now. Safe. -/
  | notModelled (mnemonic : String)
  /-- Raised by every meaning asked to start while `seq` is not Idle: the model has no step that accepts a descriptor there (U9 of
  93_implementation_defined.md, R52, R302). `step` never asks. Safe. -/
  | notIdle
  deriving DecidableEq, Repr

/-- The whole state: R30's ten components, then the environment. -/
@[ext]
structure State where
  /-- `IO.shadow` (R31). -/
  ioShadow : Byte
  /-- `IO.dir` (R33). -/
  ioDir : Dir
  /-- `CTL.shadow` (R32, R38 to R45). -/
  ctlShadow : Byte
  /-- `IO.latch` (R35). -/
  ioLatch : Option Byte
  /-- `CTL.latch` (R35). -/
  ctlLatch : Option Byte
  /-- `fault` (R47). -/
  fault : Option SessionFault
  /-- `seq` (R50). -/
  seq : Sequencer
  /-- `obuf` (R48). -/
  obuf : List Byte
  /-- `resp` (R49). -/
  resp : Response
  /-- `H`, the event history (R46). -/
  hist : List Event
  /-- The other agents (R9). -/
  env : Env
  deriving DecidableEq, Repr

/-- The environment of `State.reset`: a direct-pin transport, a device that nothing scripts, the I/O bus turned out on the
transport's side (D3), no reset input, no descriptor, no response, nothing in the output stream (log entry 2). -/
def Env.quiet : Env where
  link := .directPin
  dioIn := ⟨[], 0⟩
  ctlIn := ⟨[], 0⟩
  lineDir := some .output
  resetIn := []
  program := []
  responses := []
  stream := []

/-- The machine right after reset (R60, R280). -/
def State.reset : State where
  ioShadow := 0x00
  ioDir := .output
  ctlShadow := 0x00
  ioLatch := none
  ctlLatch := none
  fault := none
  seq := .idle
  obuf := []
  resp := ⟨.ok, []⟩
  hist := []
  env := Env.quiet

end Sys2Proof.Machine
end

