-- ==== Sys2Proof/Machine/Flags.lean ====
section
/-! DEFINITION. What NBPE computes in place of flags (10_state.md R53): the status codes, the precondition tests, the ready test,
the ID compare and the erase status decode. -/

namespace Sys2Proof.Machine

/-- The status codes of R241. -/
def Status.code : Status → Byte
  | .ok => 0x00
  | .precondition => 0x01
  | .transport => 0x02
  | .notImplemented => 0x03
  | .illegal => 0x04
  | .unresponsive => 0x05
  | .idMismatch => 0x10
  | .eraseFail => 0x11

/-- CMDLATCH's preconditions (R162, R247): each signal with the level it must have. -/
def cmdlatchPre : List (CtlSignal × Bool) := [(.nce, false), (.nre, true)]

/-- ADDRLATCH's preconditions (R165, R247). -/
def addrlatchPre : List (CtlSignal × Bool) := [(.nce, false), (.cle, false), (.nre, true)]

/-- LATCHOUT's preconditions (R168, R247). -/
def latchoutPre : List (CtlSignal × Bool) := [(.nce, false), (.nwe, true), (.ale, false)]

/-- BUSYPOLL's precondition, there only with `BUSYPOLL_NCE_CHECK` (R17, R171, R247). -/
def busypollPre (c : Config) : List (CtlSignal × Bool) := if c.busypollNceCheck then [(.nce, false)] else []

/-- The precondition check reads only `CTL.shadow` (R161). -/
def passes (c : Config) (pre : List (CtlSignal × Bool)) (shadow : Byte) : Bool :=
  pre.all fun p => signal c shadow p.1 == p.2

/-- BUSYPOLL's ready test: bit RDY of a control-bus read (R171, R53). -/
def ready (c : Config) (v : Byte) : Bool := signal c v .rdy

/-- BUSYPOLL's limit test after the n-th unsuccessful read (R171, R16). -/
def limitReached (c : Config) (n : Nat) : Bool :=
  match c.pollLimit with
  | none => false
  | some L => decide (L ≤ n)

/-- IDENTIFY's compare, byte for byte over all five bytes in latch order (R210). -/
def idStatus (c : Config) (id : List Byte) : Status :=
  if id = c.idExpected.toList then .ok else .idMismatch

/-- ERASE's decode: bit 0 of the status byte and no other bit (R218, R222). The list is the one byte of LATCHOUT 1. -/
def eraseStatus (bytes : List Byte) : Status :=
  if bytes.any fun b => b.getLsbD 0 then .eraseFail else .ok

end Sys2Proof.Machine
end

