-- ==== Sys2Proof/Machine/Ops.lean ====
section
/-! DEFINITION. The named operations on the state: the registers of each bus, the transport primitives TWrite, TRead, TConfig and
Delay of 00_scope.md R22, the helper procedures of R23, the failure of a transport call (60_exceptions.md R248), the end of an
operation (R253) and reset (70_reset_and_hazards.md R280). -/

namespace Sys2Proof.Machine

/-- `bus.shadow`. -/
def State.shadow (s : State) : Bus → Byte
  | .io => s.ioShadow
  | .ctl => s.ctlShadow

/-- `bus.shadow <- v`. -/
def State.setShadow (s : State) (bus : Bus) (v : Byte) : State :=
  match bus with
  | .io => { s with ioShadow := v }
  | .ctl => { s with ctlShadow := v }

/-- `bus.latch`. -/
def State.latch (s : State) : Bus → Option Byte
  | .io => s.ioLatch
  | .ctl => s.ctlLatch

/-- `bus.latch <- v`. -/
def State.setLatch (s : State) (bus : Bus) (v : Option Byte) : State :=
  match bus with
  | .io => { s with ioLatch := v }
  | .ctl => { s with ctlLatch := v }

/-- `IO.dir <- d`. -/
def State.setDir (s : State) (d : Dir) : State := { s with ioDir := d }

/-- The direction of the I/O bus on the transport's side, after a configure call; none where it is unknown (U6). -/
def State.setLines (s : State) (d : Option Dir) : State := { s with env := { s.env with lineDir := d } }

/-- A completed page handed to the host (R215). -/
def State.deliver (s : State) : State := { s with env := { s.env with stream := s.env.stream ++ s.obuf } }

/-- `obuf <- bytes`. -/
def State.setObuf (s : State) (bytes : List Byte) : State := { s with obuf := bytes }

/-- An event appended to the history (R46). -/
def State.log (s : State) (e : Event) : State := { s with hist := s.hist ++ [e] }

/-- The sequencer at Run(op, k) (R50). -/
def State.park (s : State) (op : Instr) (k : Nat) (loc : Locals) : State := { s with seq := .run op k loc }

/-- The end of an operation, whatever its status (R253, `respond` of R22): `seq` is Idle, `resp` is set, the host is handed the
response. Nothing else is saved and nothing else changes. The return is the host's next issue (R254). -/
def State.respond (s : State) (r : Response) : State :=
  { s with seq := .idle, resp := r, env := { s.env with responses := s.env.responses ++ [r] } }

/-- A transport call answers error (R248): the fault is set and stays, the event names the call. -/
def State.failCall (s : State) (call : TransportCall) : State :=
  { s with fault := some .transport, hist := s.hist ++ [.tfail call] }

/-- Reset, at any time (R280, R282): the ten components at their reset values, the other agents as they were (R281). -/
def State.sessionStart (s : State) : State := { State.reset with env := s.env }

/-- The transport's answer to one call (true = ok), and the transport after it. -/
def Link.ask : Link → Bool × Link
  | .directPin => (true, .directPin)
  | .answers (a :: rest) draws => (a, .answers rest draws)
  | .answers [] draws => (Config.freeAnswer draws, .answers [] (draws + 1))

/-- The byte one read returns, and the device after it. -/
def Channel.draw (free : Nat → Byte) (ch : Channel) : Byte × Channel :=
  match ch.script with
  | b :: rest => (b, { ch with script := rest })
  | [] => (free ch.draws, { ch with draws := ch.draws + 1 })

/-- The free bytes of a bus (log entry 4). -/
def freeByte : Bus → Nat → Byte
  | .io => Config.freeDioByte
  | .ctl => Config.freeCtlByte

/-- The device as the reads of a bus see it. -/
def State.channel (s : State) : Bus → Channel
  | .io => s.env.dioIn
  | .ctl => s.env.ctlIn

/-- The device after a read of a bus. -/
def State.setChannel (s : State) (bus : Bus) (ch : Channel) : State :=
  match bus with
  | .io => { s with env := { s.env with dioIn := ch } }
  | .ctl => { s with env := { s.env with ctlIn := ch } }

/-- The transport after a call. -/
def State.setLink (s : State) (l : Link) : State := { s with env := { s.env with link := l } }

/-- `WrIO(v)` or `WrCTL(v)`. -/
def writeEvent : Bus → Byte → Event
  | .io => .wrIo
  | .ctl => .wrCtl

/-- `RdIO(v)` or `RdCTL(v)`. -/
def readEvent : Bus → Byte → Event
  | .io => .rdIo
  | .ctl => .rdCtl

/-- What a transport primitive gives: a value and the state after success, or the state after failure. -/
inductive CallResult (α : Type) where
  | done (a : α) (s : State)
  | failed (s : State)

/-- `TWrite(bus, v)` (R22): on success the latch holds v; on failure it holds none, for what the pins carry is unknown. -/
def tWrite (bus : Bus) (v : Byte) (s : State) : CallResult Unit :=
  if s.env.link.ask.1 then .done () (((s.setLink s.env.link.ask.2).setLatch bus (some v)).log (writeEvent bus v))
  else .failed (((s.setLink s.env.link.ask.2).setLatch bus none).failCall (.write bus))

/-- `TRead(bus)` (R22): the byte the environment supplies. DESIGN CHOICE, log entry 17: a read that the transport fails takes no
byte from the device's script (R269 leaves it open). -/
def tRead (bus : Bus) (s : State) : CallResult Byte :=
  if s.env.link.ask.1 then
    .done ((s.channel bus).draw (freeByte bus)).1
      (((s.setLink s.env.link.ask.2).setChannel bus ((s.channel bus).draw (freeByte bus)).2).log
        (readEvent bus ((s.channel bus).draw (freeByte bus)).1))
  else .failed ((s.setLink s.env.link.ask.2).failCall (.read bus))

/-- `TConfig(d); IO.dir <- d` (R22, R144, R168): on failure `IO.dir` keeps its value, while the real direction is unknown (U6). -/
def tConfig (d : Dir) (s : State) : CallResult Unit :=
  if s.env.link.ask.1 then .done () ((((s.setLink s.env.link.ask.2).setLines (some d)).setDir d).log (.cfgIo d))
  else .failed (((s.setLink s.env.link.ask.2).setLines none).failCall .configIo)

/-- `TWrite(bus, bus.shadow)`: FLUSH's body (R142). -/
def flushBus (bus : Bus) (s : State) : CallResult Unit := tWrite bus (s.shadow bus) s

/-- `raise_pin(S)` for `level` true, `lower_pin(S)` for false (R23): the shadow bit, then a flush of the control bus. -/
def drivePin (c : Config) (S : CtlSignal) (level : Bool) (s : State) : CallResult Unit :=
  flushBus .ctl (s.setShadow .ctl (setSignal c s.ctlShadow S level))

/-- `drive_io(b)` (R23): the whole shadow byte, then a flush of the I/O bus. -/
def driveIo (b : Byte) (s : State) : CallResult Unit := flushBus .io (s.setShadow .io b)

/-- SETPIN's body: one shadow bit, no hardware effect (R141). -/
def assignPin (bus : Bus) (pin : PinPos) (on : Bool) (s : State) : State :=
  s.setShadow bus (setBit (s.shadow bus) pin on)

end Sys2Proof.Machine
end

