-- ==== Sys2Proof/Machine/Micro.lean ====
section
/-! DEFINITION. Micro-steps and micro-programs (10_state.md R50): what one micro-step does, and the run of a micro-program to its
response or to a busy-poll read that was not ready. -/

namespace Sys2Proof.Machine

/-- The last micro-step of an operation: what it answers. -/
inductive Answer where
  /-- `respond(OK, [])`. -/
  | done
  /-- `respond(st, data)` with a status and data the operands fix (MAP, PROGRAM). -/
  | fixed (r : Response)
  /-- `respond(OK, [v])` (READ). -/
  | value
  /-- `respond(OK, out)` (DUMP). -/
  | stream
  /-- `respond(OK, obuf)` (LATCHOUT, PAGEREAD). -/
  | obuf
  /-- IDENTIFY's compare (R210). -/
  | identify
  /-- ERASE's decode (R218). -/
  | erase
  deriving DecidableEq, Repr

/-- The micro-steps of R50. `assign`, `check`, `openStream`, `deliver` and `answer` are unobservable to the device: they make no
transport call and append no event. -/
inductive Micro where
  /-- The sticky fault test, then the precondition test (R140, R160, R161). -/
  | check (pre : List (CtlSignal × Bool))
  /-- SETPIN's body (R141). -/
  | assign (bus : Bus) (pin : PinPos) (on : Bool)
  /-- FLUSH's body (R142). -/
  | flush (bus : Bus)
  /-- `v <- TRead(bus)` of READ (R143). -/
  | sample (bus : Bus)
  /-- `TConfig(d); IO.dir <- d`. -/
  | config (d : Dir)
  /-- `raise_pin(S)`. -/
  | raise (S : CtlSignal)
  /-- `lower_pin(S)`. -/
  | lower (S : CtlSignal)
  /-- `drive_io(b)`. -/
  | drive (b : Byte)
  /-- `Delay(k)`. -/
  | delay (k : DelayPoint)
  /-- `obuf <- []; TConfig(IN); IO.dir <- IN`, the start of LATCHOUT (R168). -/
  | turnIn
  /-- `b <- TRead(IO); obuf <- obuf ++ [b]` (R168). -/
  | fetchByte
  /-- `v <- TRead(CTL)` of BUSYPOLL and its tests (R171). -/
  | poll
  /-- `out <- []` of DUMP (R215). -/
  | openStream
  /-- `out <- out ++ data` of DUMP: the page is handed to the host (R215). -/
  | deliver
  /-- `respond`. -/
  | answer (a : Answer)
  deriving DecidableEq, Repr

/-- What one micro-step leads to. -/
inductive Effect where
  /-- The next micro-step. -/
  | go (loc : Locals) (s : State)
  /-- The same micro-step once more: a busy-poll read that was not ready. -/
  | again (loc : Locals) (s : State)
  /-- The end of the operation, with this response. -/
  | finish (r : Response) (s : State)
  /-- The end of the operation by an error, with this status. -/
  | stop (status : Status) (loc : Locals) (s : State)

/-- A transport primitive inside an operation: on failure the operation ends with TRANSPORT (R174, R248). -/
def afterCall {α : Type} (loc : Locals) (r : CallResult α) (next : α → State → Effect) : Effect :=
  match r with
  | .done a s => next a s
  | .failed s => .stop .transport loc s

/-- `out` of the running DUMP: what it has handed to the host so far (R215). -/
def dumped (loc : Locals) (s : State) : List Byte := s.env.stream.drop loc.mark

/-- The data of a response by which an operation ends with an error (R123, R226): for DUMP the records already delivered, for every
other operation none. -/
def errorData (op : Instr) (loc : Locals) (s : State) : List Byte := if op = .dump then dumped loc s else []

/-- The response a final micro-step gives. -/
def response (c : Config) (loc : Locals) (s : State) : Answer → Response
  | .done => ⟨.ok, []⟩
  | .fixed r => r
  | .value => ⟨.ok, loc.value⟩
  | .stream => ⟨.ok, dumped loc s⟩
  | .obuf => ⟨.ok, s.obuf⟩
  | .identify => ⟨idStatus c s.obuf, s.obuf⟩
  | .erase => ⟨eraseStatus s.obuf, s.obuf⟩

/-- What BUSYPOLL does with a byte it has read (R171). -/
def afterPoll (c : Config) (loc : Locals) (v : Byte) (s : State) : Effect :=
  if ready c v then .go { loc with polls := 0 } s
  else if limitReached c (loc.polls + 1) then .stop .unresponsive loc s
  else .again { loc with polls := loc.polls + 1 } s

/-- One micro-step (R50). -/
def microEffect (c : Config) (loc : Locals) (s : State) : Micro → Effect
  | .check pre =>
    if s.fault.isSome then .stop .transport loc s
    else if passes c pre s.ctlShadow then .go loc s
    else .stop .precondition loc s
  | .assign bus pin on => .go loc (assignPin bus pin on s)
  | .flush bus => afterCall loc (flushBus bus s) fun _ s' => .go loc s'
  | .sample bus => afterCall loc (tRead bus s) fun v s' => .go { loc with value := [v] } s'
  | .config d => afterCall loc (tConfig d s) fun _ s' => .go loc s'
  | .raise S => afterCall loc (drivePin c S true s) fun _ s' => .go loc s'
  | .lower S => afterCall loc (drivePin c S false s) fun _ s' => .go loc s'
  | .drive b => afterCall loc (driveIo b s) fun _ s' => .go loc s'
  | .delay k => .go loc (s.log (.delay k))
  | .turnIn => afterCall loc (tConfig .input (s.setObuf [])) fun _ s' => .go loc s'
  | .fetchByte => afterCall loc (tRead .io s) fun b s' => .go loc (s'.setObuf (s'.obuf ++ [b]))
  | .poll => afterCall loc (tRead .ctl s) fun v s' => afterPoll c loc v s'
  | .openStream => .go { loc with mark := s.env.stream.length } s
  | .deliver => .go loc s.deliver
  | .answer a => .finish (response c loc s a) s

/-- The micro-steps `ms`, of which the first has index `k` in the micro-program of `op`, run in order until the operation answers
or a busy-poll read is not ready, in which case the sequencer stays at that read. -/
def runMicros (c : Config) (op : Instr) : List Micro → Nat → Locals → State → State
  | [], k, loc, s => s.park op k loc
  | m :: ms, k, loc, s =>
    match microEffect c loc s m with
    | .go loc' s' => runMicros c op ms (k + 1) loc' s'
    | .again loc' s' => s'.park op k loc'
    | .finish r s' => s'.respond r
    | .stop status loc' s' => s'.respond ⟨status, errorData op loc' s'⟩

/-- The issue of an operation: accepted only in Idle (R52, R261, U9), its operands sampled (R91), its micro-program run from the
start. -/
def issue (op : Instr) (program : List Micro) (s : State) : Host.Outcome State Fault Refusal :=
  match s.seq with
  | .idle => .next (runMicros Config.standard op program 0 Locals.start s)
  | .run _ _ _ => .refused .notIdle

end Sys2Proof.Machine
end

