-- ==== Sys2Proof/Machine/AddressMapper.lean ====
section
/-! DEFINITION. Family AM, the address-cycle mapper (42_address_mapper.md): MAP. The function itself is `mapCycles`. -/

namespace Sys2Proof.Machine

/-- MAP's micro-program (R200): no check of any kind (R202). -/
def mapProgram (address : Word) : List Micro := [.answer (.fixed ⟨.ok, mapCycles address⟩)]

/-- MAP address (R200). -/
def execMap (address : Word) (s : State) : Host.Outcome State Fault Refusal :=
  issue (.map address) (mapProgram address) s

end Sys2Proof.Machine
end

