-- ==== Sys2Proof/Machine/BusPrimitive.lean ====
section
/-! DEFINITION. Family BP, the bus primitive (40_bus_primitive.md): SETPIN, FLUSH, READ, SETDIR. -/

namespace Sys2Proof.Machine

/-- SETPIN's micro-program (R141): no transport call, no fault test (R140). -/
def setpinProgram (bus : Bus) (pin : PinPos) (on : Bool) : List Micro := [.assign bus pin on, .answer .done]

/-- FLUSH's micro-program (R142). -/
def flushProgram (bus : Bus) : List Micro := [.check [], .flush bus, .answer .done]

/-- READ's micro-program (R143). -/
def readProgram (bus : Bus) : List Micro := [.check [], .sample bus, .answer .value]

/-- SETDIR's micro-program (R144). -/
def setdirProgram (dir : Dir) : List Micro := [.check [], .config dir, .answer .done]

/-- SETPIN bus, pin, on (R141). -/
def execSetpin (bus : Bus) (pin : PinPos) (on : Bool) (s : State) : Host.Outcome State Fault Refusal :=
  issue (.setpin bus pin on) (setpinProgram bus pin on) s

/-- FLUSH bus (R142). -/
def execFlush (bus : Bus) (s : State) : Host.Outcome State Fault Refusal :=
  issue (.flush bus) (flushProgram bus) s

/-- READ bus (R143). -/
def execRead (bus : Bus) (s : State) : Host.Outcome State Fault Refusal :=
  issue (.read bus) (readProgram bus) s

/-- SETDIR dir (R144). -/
def execSetdir (dir : Dir) (s : State) : Host.Outcome State Fault Refusal :=
  issue (.setdir dir) (setdirProgram dir) s

end Sys2Proof.Machine
end

