-- ==== Sys2Proof/Machine/ProtocolEngine.lean ====
section
/-! DEFINITION. Family PE, the bus protocol engine (41_protocol_engine.md): CMDLATCH, ADDRLATCH, LATCHOUT, BUSYPOLL. Each
`…Steps` is the operation without its `respond`, as the flash macros use it (43_flash_operations.md, `X(...)!`). -/

namespace Sys2Proof.Machine

/-- Command Latch (R162, R163). -/
def cmdlatchSteps (cmd : Byte) : List Micro :=
  [.check cmdlatchPre, .raise .cle, .lower .nwe, .drive cmd, .raise .nwe, .lower .cle]

/-- One address byte of Address Latch (R165, R166). -/
def addressSteps (b : Byte) : List Micro :=
  [.lower .nwe, .delay .settle, .drive b, .delay .setup, .raise .nwe, .delay .whold]

/-- Address Latch (R165, R166). -/
def addrlatchSteps (bytes : List Byte) : List Micro :=
  [.check addrlatchPre, .raise .ale] ++ bytes.flatMap addressSteps ++ [.lower .ale]

/-- One read cycle of Register Latch-Out (R168, R169). -/
def readCycle : List Micro := [.lower .nre, .delay .access, .fetchByte, .raise .nre, .delay .rhold]

/-- n read cycles (R168). -/
def readCycles : Nat → List Micro
  | 0 => []
  | n + 1 => readCycle ++ readCycles n

/-- Register Latch-Out (R168, R169): the direction flip brackets the whole loop, an empty one too (R170). -/
def latchoutSteps (n : Nat) : List Micro :=
  [.check latchoutPre, .turnIn] ++ readCycles n ++ [.config .output]

/-- Busy-Poll (R171, R172). -/
def busypollSteps (c : Config) : List Micro := [.check (busypollPre c), .poll]

/-- CMDLATCH's micro-program. -/
def cmdlatchProgram (cmd : Byte) : List Micro := cmdlatchSteps cmd ++ [.answer .done]

/-- ADDRLATCH's micro-program. -/
def addrlatchProgram (bytes : List Byte) : List Micro := addrlatchSteps bytes ++ [.answer .done]

/-- LATCHOUT's micro-program. -/
def latchoutProgram (n : Word) : List Micro := latchoutSteps n.toNat ++ [.answer .obuf]

/-- BUSYPOLL's micro-program. -/
def busypollProgram (c : Config) : List Micro := busypollSteps c ++ [.answer .done]

/-- CMDLATCH cmd (R162). -/
def execCmdlatch (cmd : Byte) (s : State) : Host.Outcome State Fault Refusal :=
  issue (.cmdlatch cmd) (cmdlatchProgram cmd) s

/-- ADDRLATCH bytes (R165). -/
def execAddrlatch (bytes : List Byte) (s : State) : Host.Outcome State Fault Refusal :=
  issue (.addrlatch bytes) (addrlatchProgram bytes) s

/-- LATCHOUT n (R168). -/
def execLatchout (n : Word) (s : State) : Host.Outcome State Fault Refusal :=
  issue (.latchout n) (latchoutProgram n) s

/-- BUSYPOLL (R171): one read at a time; a read that is not ready leaves `seq` at the poll, and the next step reads again. -/
def execBusypoll (s : State) : Host.Outcome State Fault Refusal :=
  issue .busypoll (busypollProgram Config.standard) s

end Sys2Proof.Machine
end

