-- ==== Sys2Proof/Machine/FlashOperations.lean ====
section
/-! DEFINITION. Family FO, the flash operation macros (43_flash_operations.md): IDENTIFY, PAGEREAD, DUMP, ERASE, PROGRAM, each its
expansion into the operations of family PE (R127). A step that fails ends the macro with that step's status (R225). -/

namespace Sys2Proof.Machine

/-- IDENTIFY's expansion (R210). -/
def identifyProgram : List Micro :=
  cmdlatchSteps cmdReadId ++ addrlatchSteps [idAddress] ++ latchoutSteps idBytes ++ [.answer .identify]

/-- The expansion of one page read (R212). -/
def pagereadSteps (c : Config) (page : Word) : List Micro :=
  cmdlatchSteps cmdReadSetup ++ addrlatchSteps (mapCycles (readAddress c page)) ++ cmdlatchSteps cmdReadConfirm ++
    busypollSteps c ++ latchoutSteps c.pageBytes

/-- PAGEREAD's expansion (R212). -/
def pagereadProgram (c : Config) (page : Word) : List Micro := pagereadSteps c page ++ [.answer .obuf]

/-- DUMP's loop: n iterations from page index i on, each page handed over as it completes (R215). -/
def dumpSteps (c : Config) : Nat → Nat → List Micro
  | _, 0 => []
  | i, n + 1 => pagereadSteps c (BitVec.ofNat 32 i) ++ ([.deliver] ++ dumpSteps c (i + 1) n)

/-- DUMP's expansion (R215). -/
def dumpProgram (c : Config) : List Micro := [.openStream] ++ dumpSteps c 0 c.nPages ++ [.answer .stream]

/-- ERASE's expansion (R218). -/
def eraseProgram (c : Config) (block : Word) : List Micro :=
  [.check [], .raise .nwp] ++ cmdlatchSteps cmdEraseSetup ++ addrlatchSteps (rowCycles (eraseAddress c block)) ++
    cmdlatchSteps cmdEraseConfirm ++ busypollSteps c ++ cmdlatchSteps cmdReadStatus ++ latchoutSteps 1 ++
    [.lower .nwp, .answer .erase]

/-- PROGRAM's stub (R224): no check of any kind. -/
def programProgram : List Micro := [.answer (.fixed ⟨.notImplemented, []⟩)]

/-- IDENTIFY (R210). -/
def execIdentify (s : State) : Host.Outcome State Fault Refusal := issue .identify identifyProgram s

/-- PAGEREAD page (R212). -/
def execPageread (page : Word) (s : State) : Host.Outcome State Fault Refusal :=
  issue (.pageread page) (pagereadProgram Config.standard page) s

/-- DUMP (R215). -/
def execDump (s : State) : Host.Outcome State Fault Refusal := issue .dump (dumpProgram Config.standard) s

/-- ERASE block (R218). -/
def execErase (block : Word) (s : State) : Host.Outcome State Fault Refusal :=
  issue (.erase block) (eraseProgram Config.standard block) s

/-- PROGRAM (R224). -/
def execProgram (s : State) : Host.Outcome State Fault Refusal := issue .program programProgram s

end Sys2Proof.Machine
end

