-- ==== Sys2Proof/Machine/Dispatch.lean ====
section
/-! DEFINITION. exec: one arm per operation of 30_encoding.md R110. -/

namespace Sys2Proof.Machine

def exec (i : Instr) (s : State) : Host.Outcome State Fault Refusal :=
  match i with
  | .setpin bus pin on => Sys2Proof.Machine.execSetpin bus pin on s
  | .flush bus => Sys2Proof.Machine.execFlush bus s
  | .read bus => Sys2Proof.Machine.execRead bus s
  | .setdir dir => Sys2Proof.Machine.execSetdir dir s
  | .cmdlatch cmd => Sys2Proof.Machine.execCmdlatch cmd s
  | .addrlatch bytes => Sys2Proof.Machine.execAddrlatch bytes s
  | .latchout n => Sys2Proof.Machine.execLatchout n s
  | .busypoll => Sys2Proof.Machine.execBusypoll s
  | .map address => Sys2Proof.Machine.execMap address s
  | .identify => Sys2Proof.Machine.execIdentify s
  | .pageread page => Sys2Proof.Machine.execPageread page s
  | .dump => Sys2Proof.Machine.execDump s
  | .erase block => Sys2Proof.Machine.execErase block s
  | .program => Sys2Proof.Machine.execProgram s

end Sys2Proof.Machine
end

