-- ==== Sys2Proof/WellFormed.lean ====
section
/-! DEFINITION. Which operations a descriptor can express under a given configuration (30_encoding.md R109, R121). -/

namespace Sys2Proof

/-- An operation is well formed when some descriptor stands for it: an address list has at most five bytes (R107, R109), and a
flash macro is there only with `HAS_FLASH_MACROS` (R20, R121). Every other bound is in the operand's type. -/
def WellFormed (c : Config) : Instr → Bool
  | .setpin _ _ _ => true
  | .flush _ => true
  | .read _ => true
  | .setdir _ => true
  | .cmdlatch _ => true
  | .addrlatch bytes => decide (bytes.length ≤ 5)
  | .latchout _ => true
  | .busypoll => true
  | .map _ => true
  | .identify => c.hasFlashMacros
  | .pageread _ => c.hasFlashMacros
  | .dump => c.hasFlashMacros
  | .erase _ => c.hasFlashMacros
  | .program => c.hasFlashMacros

end Sys2Proof
end

