-- ==== Sys2Proof/Decode.lean ====
section
/-! DEFINITION. The 64-bit operation descriptor (30_encoding.md): the decoder, total on all descriptors and rejecting by name,
the encoder, and the match and mask constants of R111. -/

namespace Sys2Proof

/-- Why a descriptor is illegal (R121). The machine answers ILLEGAL for each and records none of it (R243). -/
inductive DecodeError where
  /-- R121 (a): the operation code is none of the fourteen. -/
  | unassignedOp (op : Byte)
  /-- R121 (b): a reserved bit of the format is set. -/
  | reservedBits (op : Byte)
  /-- R121 (c): ADDRLATCH with n = 6 or 7. -/
  | addressCount (n : BitVec 3)
  /-- R121 (d): ADDRLATCH with a nonzero byte at or above position n. -/
  | addressBeyondCount (n : BitVec 3)
  /-- R121 (e): a flash macro while `HAS_FLASH_MACROS` is false. -/
  | macrosAbsent (op : Byte)
  deriving DecidableEq, Repr

/-- The one-bit `bus` operand (R103, R104). -/
def busOfBit (b : Bool) : Bus := if b then .ctl else .io

/-- The bit that stands for a bus (R103, R104). -/
def bitOfBus : Bus → Bool
  | .io => false
  | .ctl => true

/-- The one-bit `dir` operand (R105). -/
def dirOfBit (b : Bool) : Dir := if b then .output else .input

/-- The bit that stands for a direction (R105). -/
def bitOfDir : Dir → Bool
  | .input => false
  | .output => true

/-- R120: the operation, provided the reserved bits of its format are all 0. -/
def reservedZero {w : Nat} (op : Byte) (reserved : BitVec w) (i : Instr) : Except DecodeError Instr :=
  if reserved = 0#w then .ok i else .error (.reservedBits op)

/-- R121 (e): a family FO code is legal only with `HAS_FLASH_MACROS`. -/
def macroOnly (c : Config) (op : Byte) (r : Except DecodeError Instr) : Except DecodeError Instr :=
  if c.hasFlashMacros then r else .error (.macrosAbsent op)

/-- The five address bytes a0..a4 of format A, first latched first (R107, R109). -/
def addressBytes (W : Descriptor) : List Byte :=
  [W.extractLsb' 0 8, W.extractLsb' 8 8, W.extractLsb' 16 8, W.extractLsb' 24 8, W.extractLsb' 32 8]

/-- Format A (R107): the count is at most 5 and every byte at or above it is 0. -/
def decodeAddresses (W : Descriptor) : Except DecodeError Instr :=
  let n := W.extractLsb' 40 3
  if 5 < n.toNat then .error (.addressCount n)
  else if ((addressBytes W).drop n.toNat).all (· == 0) then .ok (.addrlatch ((addressBytes W).take n.toNat))
  else .error (.addressBeyondCount n)

/-- The decoder of R120, total on all 2^64 descriptors. -/
def decode (c : Config) (W : Descriptor) : Except DecodeError Instr :=
  let op := W.extractLsb' 56 8
  if op = 0x11#8 then
    reservedZero op (W.extractLsb' 5 51)
      (.setpin (busOfBit (W.getLsbD 4)) (W.extractLsb' 1 3) (W.getLsbD 0))
  else if op = 0x12#8 then reservedZero op (W.extractLsb' 1 55) (.flush (busOfBit (W.getLsbD 0)))
  else if op = 0x13#8 then reservedZero op (W.extractLsb' 1 55) (.read (busOfBit (W.getLsbD 0)))
  else if op = 0x14#8 then reservedZero op (W.extractLsb' 1 55) (.setdir (dirOfBit (W.getLsbD 0)))
  else if op = 0x21#8 then reservedZero op (W.extractLsb' 8 48) (.cmdlatch (W.extractLsb' 0 8))
  else if op = 0x22#8 then
    if W.extractLsb' 43 13 = 0#13 then decodeAddresses W else .error (.reservedBits op)
  else if op = 0x23#8 then reservedZero op (W.extractLsb' 32 24) (.latchout (W.extractLsb' 0 32))
  else if op = 0x24#8 then reservedZero op (W.extractLsb' 0 56) .busypoll
  else if op = 0x41#8 then reservedZero op (W.extractLsb' 32 24) (.map (W.extractLsb' 0 32))
  else if op = 0x51#8 then macroOnly c op (reservedZero op (W.extractLsb' 0 56) .identify)
  else if op = 0x52#8 then
    macroOnly c op (reservedZero op (W.extractLsb' 32 24) (.pageread (W.extractLsb' 0 32)))
  else if op = 0x53#8 then macroOnly c op (reservedZero op (W.extractLsb' 0 56) .dump)
  else if op = 0x54#8 then
    macroOnly c op (reservedZero op (W.extractLsb' 32 24) (.erase (W.extractLsb' 0 32)))
  else if op = 0x55#8 then macroOnly c op (reservedZero op (W.extractLsb' 0 56) .program)
  else .error (.unassignedOp op)

/-- The operation code of R110. -/
def opcode : Instr → Byte
  | .setpin _ _ _ => 0x11
  | .flush _ => 0x12
  | .read _ => 0x13
  | .setdir _ => 0x14
  | .cmdlatch _ => 0x21
  | .addrlatch _ => 0x22
  | .latchout _ => 0x23
  | .busypoll => 0x24
  | .map _ => 0x41
  | .identify => 0x51
  | .pageread _ => 0x52
  | .dump => 0x53
  | .erase _ => 0x54
  | .program => 0x55

/-- The descriptor of an operation, field by field as R101 to R108 lay it out. For an operation that is not well formed the word
is of no meaning. -/
def encode : Instr → Descriptor
  | .setpin bus pin on => 0x11#8 ++ 0#51 ++ BitVec.ofBool (bitOfBus bus) ++ pin ++ BitVec.ofBool on
  | .flush bus => 0x12#8 ++ 0#55 ++ BitVec.ofBool (bitOfBus bus)
  | .read bus => 0x13#8 ++ 0#55 ++ BitVec.ofBool (bitOfBus bus)
  | .setdir dir => 0x14#8 ++ 0#55 ++ BitVec.ofBool (bitOfDir dir)
  | .cmdlatch cmd => 0x21#8 ++ 0#48 ++ cmd
  | .addrlatch bytes =>
    0x22#8 ++ 0#13 ++ BitVec.ofNat 3 bytes.length ++ bytes.getD 4 0 ++ bytes.getD 3 0 ++ bytes.getD 2 0 ++
      bytes.getD 1 0 ++ bytes.getD 0 0
  | .latchout n => 0x23#8 ++ 0#24 ++ n
  | .busypoll => 0x24#8 ++ 0#56
  | .map address => 0x41#8 ++ 0#24 ++ address
  | .identify => 0x51#8 ++ 0#56
  | .pageread page => 0x52#8 ++ 0#24 ++ page
  | .dump => 0x53#8 ++ 0#56
  | .erase block => 0x54#8 ++ 0#24 ++ block
  | .program => 0x55#8 ++ 0#56

/-- The `match` constant of R111. -/
def matchWord : Instr → Descriptor
  | .setpin _ _ _ => 0x1100000000000000
  | .flush _ => 0x1200000000000000
  | .read _ => 0x1300000000000000
  | .setdir _ => 0x1400000000000000
  | .cmdlatch _ => 0x2100000000000000
  | .addrlatch _ => 0x2200000000000000
  | .latchout _ => 0x2300000000000000
  | .busypoll => 0x2400000000000000
  | .map _ => 0x4100000000000000
  | .identify => 0x5100000000000000
  | .pageread _ => 0x5200000000000000
  | .dump => 0x5300000000000000
  | .erase _ => 0x5400000000000000
  | .program => 0x5500000000000000

/-- The `mask` constant of R111. -/
def maskWord : Instr → Descriptor
  | .setpin _ _ _ => 0xFFFFFFFFFFFFFFE0
  | .flush _ => 0xFFFFFFFFFFFFFFFE
  | .read _ => 0xFFFFFFFFFFFFFFFE
  | .setdir _ => 0xFFFFFFFFFFFFFFFE
  | .cmdlatch _ => 0xFFFFFFFFFFFFFF00
  | .addrlatch _ => 0xFFFFF80000000000
  | .latchout _ => 0xFFFFFFFF00000000
  | .busypoll => 0xFFFFFFFFFFFFFFFF
  | .map _ => 0xFFFFFFFF00000000
  | .identify => 0xFFFFFFFFFFFFFFFF
  | .pageread _ => 0xFFFFFFFF00000000
  | .dump => 0xFFFFFFFFFFFFFFFF
  | .erase _ => 0xFFFFFFFF00000000
  | .program => 0xFFFFFFFFFFFFFFFF

/-- The host's question: the operation this decoder reads from the table's bits, of which a descriptor has 64 (R100). -/
def decodeTableWord (nbits w : Nat) : Option Instr :=
  (decode Config.standard (BitVec.ofNat 64 (w % 2 ^ nbits))).toOption

end Sys2Proof
end

