-- ==== Sys2Proof/Machine/Sequencer.lean ====
section
/-! DEFINITION. The sequencer: the micro-program of every operation (10_state.md R50), the operation as a whole under any
configuration, its continuation from a Run position, the single micro-step, and what the machine does next (host interface,
60_exceptions.md R245, R251; reset, 70_reset_and_hazards.md R282). -/

namespace Sys2Proof.Machine

/-- The micro-program of an operation (R50). -/
def microProgram (c : Config) : Instr → List Micro
  | .setpin bus pin on => setpinProgram bus pin on
  | .flush bus => flushProgram bus
  | .read bus => readProgram bus
  | .setdir dir => setdirProgram dir
  | .cmdlatch cmd => cmdlatchProgram cmd
  | .addrlatch bytes => addrlatchProgram bytes
  | .latchout n => latchoutProgram n
  | .busypoll => busypollProgram c
  | .map address => mapProgram address
  | .identify => identifyProgram
  | .pageread page => pagereadProgram c page
  | .dump => dumpProgram c
  | .erase block => eraseProgram c block
  | .program => programProgram

/-- An operation from its start, under any configuration: to its response, or to the first busy-poll read that is not ready. -/
def perform (c : Config) (i : Instr) (s : State) : State := runMicros c i (microProgram c i) 0 Locals.start s

/-- An operation in progress goes on from Run(op, k) (R50). Past the end of the micro-program there is no step. -/
def resume (c : Config) (op : Instr) (k : Nat) (loc : Locals) (s : State) : Host.Outcome State Fault Refusal :=
  match (microProgram c op).drop k with
  | [] => .fault .seqPastEnd
  | m :: ms => .next (runMicros c op (m :: ms) k loc s)

/-- ONE micro-step of R50, from a Run position: the finer machine of which `perform` and `resume` are runs. In Idle, and past the
end of a micro-program, it does nothing. -/
def microStep (c : Config) (s : State) : State :=
  match s.seq with
  | .idle => s
  | .run op k loc =>
    match (microProgram c op)[k]? with
    | none => s
    | some m =>
      match microEffect c loc s m with
      | .go loc' s' => s'.park op (k + 1) loc'
      | .again loc' s' => s'.park op k loc'
      | .finish r s' => s'.respond r
      | .stop status loc' s' => s'.respond ⟨status, errorData op loc' s'⟩

/-- What the machine does next while the reset input is at rest. -/
inductive Turn where
  /-- An operation in progress goes on. -/
  | go (op : Instr) (k : Nat) (loc : Locals) (s : State)
  /-- A legal descriptor is accepted. -/
  | issue (i : Instr) (s : State)
  /-- An illegal descriptor is accepted. -/
  | illegal (e : DecodeError) (s : State)
  /-- Idle, and the host has nothing to issue: quiescent (R307). -/
  | wait (s : State)

/-- The descriptor at the head of the host's program, taken in Idle (R52, R120). -/
def takeDescriptor (c : Config) (s : State) : Turn :=
  match s.env.program with
  | [] => .wait s
  | W :: rest =>
    match decode c W with
    | .ok i => .issue i { s with env := { s.env with program := rest } }
    | .error e => .illegal e { s with env := { s.env with program := rest } }

/-- The turn of the machine: a running operation goes on and no descriptor is accepted (U9). -/
def turn (c : Config) (s : State) : Turn :=
  match s.seq with
  | .run op k loc => .go op k loc s
  | .idle => takeDescriptor c s

/-- The machine at its finest grain: in Idle a descriptor is accepted (a legal one starts its operation, an illegal one is answered),
at a Run position one micro-step is made. -/
def advance (c : Config) (s : State) : State :=
  match turn c s with
  | .go _ _ _ s' => microStep c s'
  | .issue i s' => s'.park i 0 Locals.start
  | .illegal _ s' => s'.respond ⟨.illegal, []⟩
  | .wait s' => s'

/-- So many advances. -/
def advances (c : Config) : Nat → State → State
  | 0, s => s
  | n + 1, s => advances c n (advance c s)

/-- Reset after n advances: whatever operation they leave in progress is cut and gives no response (R282, R298). -/
def resetAfter (c : Config) (n : Nat) (s : State) : State := (advances c n s).sessionStart

/-- When the reset input is applied in the coming step, if it is (R261, R282). -/
def resetDue (s : State) : Option Nat :=
  match s.env.resetIn with
  | [] => none
  | due :: _ => due

/-- The state once the coming step has sampled the reset input. -/
def State.afterSampling (s : State) : State := { s with env := { s.env with resetIn := s.env.resetIn.tail } }

/-- The step of the machine under any configuration: the reset input comes first, at any time (R282). -/
def stepWith (c : Config) (s : State) : Host.Outcome State Fault Refusal :=
  match resetDue s with
  | some n => .next (resetAfter c n s.afterSampling)
  | none =>
    match turn c s.afterSampling with
    | .go op k loc s' => resume c op k loc s'
    | .issue i s' => .next (perform c i s')
    | .illegal _ s' => .next (s'.respond ⟨.illegal, []⟩)
    | .wait s' => .next s'

/-- Several steps under any configuration, stopping where one stops. -/
def stepsWith (c : Config) : Nat → State → Host.Outcome State Fault Refusal
  | 0, s => .next s
  | n + 1, s =>
    match stepWith c s with
    | .next s' => stepsWith c n s'
    | .fault r => .fault r
    | .refused r => .refused r

end Sys2Proof.Machine
end

