-- ==== Sys2Proof/Machine/Step.lean ====
section
/-! DEFINITION. One step of the machine, at the standard configuration: a reset (at once or after some micro-steps), an operation
issued and run (to its response or to a busy-poll read that is not ready), an operation in progress continued, or a wait. -/

namespace Sys2Proof.Machine

/-- One step. -/
def step (s : State) : Host.Outcome State Fault Refusal :=
  match resetDue s with
  | some n => .next (resetAfter Config.standard n s.afterSampling)
  | none =>
    match turn Config.standard s.afterSampling with
    | .go op k loc s' => resume Config.standard op k loc s'
    | .issue i s' => exec i s'
    | .illegal _ s' => .next (s'.respond ⟨.illegal, []⟩)
    | .wait s' => .next s'

/-- The host presents the descriptor whose bits are w, and the engine is Idle with the reset input not applied, so that the very
next step accepts it (log entry 7). -/
def State.withFetchWord (s : State) (nbits w : Nat) : State :=
  { s with
    seq := .idle
    env := { s.env with resetIn := [], program := BitVec.ofNat 64 (w % 2 ^ nbits) :: s.env.program } }

end Sys2Proof.Machine
end

