-- ==== Sys2Proof/Machine/Positions.lean ====
section
/-! DEFINITION. The names the spec gives the positions of the sequencer (10_state.md R51; 41_protocol_engine.md R163, R166, R169;
43_flash_operations.md R221), as a function of the index k of the next micro-step: the name of the state reached after micro-step
k - 1. -/

namespace Sys2Proof.Machine

/-- The states of Block Erase (R51, R221). -/
inductive EraseState where
  | idle
  | wpReleased
  | setupLatched
  | addressLatched
  | confirmLatched
  | busy
  | statusRead
  | wpRestored
  deriving DecidableEq, Repr

/-- The named positions. The index is that of the address byte or read cycle; Command Latch, whose one strobe has no index in the
spec, has 0. -/
inductive Position where
  | idle
  | cleHigh
  | cleLow
  | aleHigh
  | aleLow
  | dirIn
  | dirOut
  | strobeLow (i : Nat)
  | settled (i : Nat)
  | dataSet (i : Nat)
  | setUp (i : Nat)
  | strobeHigh (i : Nat)
  | held (i : Nat)
  | accessed (i : Nat)
  | sampled (i : Nat)
  /-- Inside ERASE: the macro's state and the position inside the current sub-operation (R221). -/
  | inErase (state : EraseState) (inner : Position)
  /-- A position the spec gives no name. -/
  | unnamed (k : Nat)
  deriving DecidableEq, Repr

/-- Command Latch (R163). -/
def cmdlatchPosition (k : Nat) : Position :=
  match k with
  | 0 => .idle
  | 1 => .idle
  | 2 => .cleHigh
  | 3 => .strobeLow 0
  | 4 => .dataSet 0
  | 5 => .strobeHigh 0
  | 6 => .cleLow
  | k => .unnamed k

/-- Address Latch of n bytes (R166): two micro-steps before the loop, six a byte. Before ALE-high the spec names no position. -/
def addrlatchPosition (n k : Nat) : Position :=
  if k < 2 then .unnamed k
  else if k = 2 then .aleHigh
  else if k < 3 + 6 * n then
    match (k - 3) % 6 with
    | 0 => .strobeLow ((k - 3) / 6)
    | 1 => .settled ((k - 3) / 6)
    | 2 => .dataSet ((k - 3) / 6)
    | 3 => .setUp ((k - 3) / 6)
    | 4 => .strobeHigh ((k - 3) / 6)
    | _ => .held ((k - 3) / 6)
  else if k = 3 + 6 * n then .aleLow
  else .unnamed k

/-- Register Latch-Out of n bytes (R169): two micro-steps before the loop, five a byte. Before dir-in the spec names no
position. -/
def latchoutPosition (n k : Nat) : Position :=
  if k < 2 then .unnamed k
  else if k = 2 then .dirIn
  else if k < 3 + 5 * n then
    match (k - 3) % 5 with
    | 0 => .strobeLow ((k - 3) / 5)
    | 1 => .accessed ((k - 3) / 5)
    | 2 => .sampled ((k - 3) / 5)
    | 3 => .strobeHigh ((k - 3) / 5)
    | _ => .held ((k - 3) / 5)
  else if k = 3 + 5 * n then .dirOut
  else .unnamed k

/-- Block Erase (R221). Its micro-program starts its sub-operations at 2 (CMDLATCH 0x60), 8 (ADDRLATCH), 29 (CMDLATCH 0xD0), 35
(BUSYPOLL, whose one micro-step is 36), 37 (CMDLATCH 0x70) and 43 (LATCHOUT 1); nWP is lowered at 51. -/
def erasePosition (k : Nat) : Position :=
  if k < 2 then .inErase .idle (.unnamed k)
  else if k < 8 then .inErase .wpReleased (cmdlatchPosition (k - 2))
  else if k < 29 then .inErase .setupLatched (addrlatchPosition 3 (k - 8))
  else if k < 35 then .inErase .addressLatched (cmdlatchPosition (k - 29))
  else if k < 36 then .inErase .confirmLatched (.unnamed (k - 35))
  else if k < 37 then .inErase .busy (.unnamed (k - 35))
  else if k < 43 then .inErase .busy (cmdlatchPosition (k - 37))
  else if k < 51 then .inErase .busy (latchoutPosition 1 (k - 43))
  else if k < 52 then .inErase .statusRead (.unnamed k)
  else .inErase .wpRestored (.unnamed k)

/-- The name of a sequencer position (R51); `done` of ERASE is Idle, after the response. -/
def position : Sequencer → Position
  | .idle => .idle
  | .run (.cmdlatch _) k _ => cmdlatchPosition k
  | .run (.addrlatch bytes) k _ => addrlatchPosition bytes.length k
  | .run (.latchout n) k _ => latchoutPosition n.toNat k
  | .run (.erase _) k _ => erasePosition k
  | .run (.setpin _ _ _) k _ => .unnamed k
  | .run (.flush _) k _ => .unnamed k
  | .run (.read _) k _ => .unnamed k
  | .run (.setdir _) k _ => .unnamed k
  | .run .busypoll k _ => .unnamed k
  | .run (.map _) k _ => .unnamed k
  | .run .identify k _ => .unnamed k
  | .run (.pageread _) k _ => .unnamed k
  | .run .dump k _ => .unnamed k
  | .run .program k _ => .unnamed k

end Sys2Proof.Machine
end

