-- ==== Sys2Proof/Machine/Assembly.lean ====
section
/-! DEFINITION. The assembler's side of 30_encoding.md: the expansions of the pseudo-operations (R126), the text of an operation, and
the assembler, from a line of text to the descriptors it stands for (R125). -/

namespace Sys2Proof.Machine

/-- The exact expansion of a pseudo-operation (R126). -/
def expand (c : Config) : Pseudo → List Instr
  | .raise S => [.setpin .ctl (c.pin S) true, .flush .ctl]
  | .lower S => [.setpin .ctl (c.pin S) false, .flush .ctl]
  | .drive b =>
    [.setpin .io 0 (b.getLsbD 0), .setpin .io 1 (b.getLsbD 1), .setpin .io 2 (b.getLsbD 2),
      .setpin .io 3 (b.getLsbD 3), .setpin .io 4 (b.getLsbD 4), .setpin .io 5 (b.getLsbD 5),
      .setpin .io 6 (b.getLsbD 6), .setpin .io 7 (b.getLsbD 7), .flush .io]
  | .init => [.setpin .ctl (c.pin .nwe) true, .setpin .ctl (c.pin .nre) true, .flush .ctl]

/-- A bus as the assembler writes it (R125). -/
def busText : Bus → String
  | .io => "IO"
  | .ctl => "CTL"

/-- A direction as the assembler writes it (R125). -/
def dirText : Dir → String
  | .input => "IN"
  | .output => "OUT"

/-- A control signal as the assembler writes it (R125). -/
def signalText : CtlSignal → String
  | .cle => "CLE"
  | .ale => "ALE"
  | .nce => "nCE"
  | .nwe => "nWE"
  | .nre => "nRE"
  | .nwp => "nWP"
  | .rdy => "RDY"
  | .led => "LED"

/-- The name of a bit position of a bus (R125): the signal PINMAP puts there. -/
def pinText (c : Config) (bus : Bus) (pin : PinPos) : String :=
  match bus with
  | .io => "DIO" ++ toString pin.toNat
  | .ctl =>
    match CtlSignal.all.find? fun S => c.pin S == pin with
    | some S => signalText S
    | none => toString pin.toNat

/-- The operands of an operation as text, numbers in decimal (R125). -/
def operandTexts (c : Config) : Instr → List String
  | .setpin bus pin on => [busText bus, pinText c bus pin, if on then "1" else "0"]
  | .flush bus => [busText bus]
  | .read bus => [busText bus]
  | .setdir dir => [dirText dir]
  | .cmdlatch cmd => [toString cmd.toNat]
  | .addrlatch bytes => bytes.map fun b => toString b.toNat
  | .latchout n => [toString n.toNat]
  | .busypoll => []
  | .map address => [toString address.toNat]
  | .identify => []
  | .pageread page => [toString page.toNat]
  | .dump => []
  | .erase block => [toString block.toNat]
  | .program => []

/-- One operation as a line of assembler text (R125): the mnemonic, then the operands separated by commas. -/
def assembly (c : Config) (i : Instr) : String :=
  match operandTexts c i with
  | [] => i.mnemonic
  | t :: ts => i.mnemonic ++ " " ++ String.intercalate ", " (t :: ts)

/-! ### The assembler (R125) -/

/-- What a name stands for in a table of names. -/
def named {α : Type} (table : List (String × α)) (text : List Char) : Option α :=
  (table.find? fun entry => entry.1.toList == text).map fun entry => entry.2

/-- Text without the blanks around it. -/
def trimmed (text : List Char) : List Char :=
  ((text.dropWhile (· == ' ')).reverse.dropWhile (· == ' ')).reverse

/-- The parts of a text between its commas. -/
def commaParts (text : List Char) : List (List Char) :=
  text.foldr
    (fun ch parts =>
      if ch == ',' then [] :: parts
      else
        match parts with
        | [] => [[ch]]
        | part :: rest => (ch :: part) :: rest)
    [[]]

/-- The value of a digit, of whichever base. -/
def digitValue (ch : Char) : Option Nat :=
  if '0' ≤ ch ∧ ch ≤ '9' then some (ch.toNat - '0'.toNat)
  else if 'a' ≤ ch ∧ ch ≤ 'f' then some (ch.toNat - 'a'.toNat + 10)
  else if 'A' ≤ ch ∧ ch ≤ 'F' then some (ch.toNat - 'A'.toNat + 10)
  else none

/-- The number a string of digits of a base continues, most significant first. -/
def digitsFrom (base : Nat) : Nat → List Char → Option Nat
  | n, [] => some n
  | n, ch :: rest =>
    match digitValue ch with
    | none => none
    | some d => if d < base then digitsFrom base (n * base + d) rest else none

/-- A number, decimal or hexadecimal (R125). -/
def numberOf : List Char → Option Nat
  | [] => none
  | ['0', 'x'] => none
  | '0' :: 'x' :: digits => digitsFrom 16 0 digits
  | ch :: digits => digitsFrom 10 0 (ch :: digits)

/-- A number that fits w bits. -/
def bitsOf (w : Nat) (text : List Char) : Option (BitVec w) :=
  match numberOf text with
  | none => none
  | some n => if n < 2 ^ w then some (BitVec.ofNat w n) else none

/-- `IO` or `CTL`. -/
def busOf : List Char → Option Bus := named [(busText .io, .io), (busText .ctl, .ctl)]

/-- `IN` or `OUT`. -/
def dirOf : List Char → Option Dir := named [(dirText .input, .input), (dirText .output, .output)]

/-- The name of a control signal. -/
def signalOf : List Char → Option CtlSignal := named (CtlSignal.all.map fun S => (signalText S, S))

/-- The pin a name stands for on a bus (R125). -/
def pinOf (c : Config) (bus : Bus) (text : List Char) : Option PinPos :=
  match bus with
  | .io => named ([0, 1, 2, 3, 4, 5, 6, 7].map fun k => (pinText c .io k, k)) text
  | .ctl => (signalOf text).map c.pin

/-- `0` or `1`. -/
def levelOf : List Char → Option Bool := named [("0", false), ("1", true)]

/-- A list of byte operands. -/
def bytesOf : List (List Char) → Option (List Byte)
  | [] => some []
  | text :: rest =>
    match bitsOf 8 text, bytesOf rest with
    | some b, some bs => some (b :: bs)
    | some _, none => none
    | none, _ => none

/-- SETPIN's operands. -/
def setpinOf (c : Config) : List (List Char) → Option Instr
  | [b, p, l] =>
    match busOf b, levelOf l with
    | some bus, some on => (pinOf c bus p).map fun pin => .setpin bus pin on
    | some _, none => none
    | none, _ => none
  | _ => none

/-- An operand list of exactly one operand. -/
def onlyOperand {α : Type} (read : List Char → Option α) : List (List Char) → Option α
  | [text] => read text
  | _ => none

/-- An operand list of none. -/
def noOperand {α : Type} (a : α) : List (List Char) → Option α
  | [] => some a
  | _ => none

/-- How each mnemonic reads its operands (R110, R125), and each pseudo-operation (R126). -/
def readers (c : Config) : List (String × (List (List Char) → Option (List Instr))) :=
  [("SETPIN", fun ts => (setpinOf c ts).map fun i => [i]),
    ("FLUSH", fun ts => (onlyOperand busOf ts).map fun bus => [.flush bus]),
    ("READ", fun ts => (onlyOperand busOf ts).map fun bus => [.read bus]),
    ("SETDIR", fun ts => (onlyOperand dirOf ts).map fun dir => [.setdir dir]),
    ("CMDLATCH", fun ts => (onlyOperand (bitsOf 8) ts).map fun cmd => [.cmdlatch cmd]),
    ("ADDRLATCH", fun ts => (bytesOf ts).map fun bytes => [.addrlatch bytes]),
    ("LATCHOUT", fun ts => (onlyOperand (bitsOf 32) ts).map fun n => [.latchout n]),
    ("BUSYPOLL", noOperand [.busypoll]),
    ("MAP", fun ts => (onlyOperand (bitsOf 32) ts).map fun address => [.map address]),
    ("IDENTIFY", noOperand [.identify]),
    ("PAGEREAD", fun ts => (onlyOperand (bitsOf 32) ts).map fun page => [.pageread page]),
    ("DUMP", noOperand [.dump]),
    ("ERASE", fun ts => (onlyOperand (bitsOf 32) ts).map fun block => [.erase block]),
    ("PROGRAM", noOperand [.program]),
    ("RAISE", fun ts => (onlyOperand signalOf ts).map fun S => expand c (.raise S)),
    ("LOWER", fun ts => (onlyOperand signalOf ts).map fun S => expand c (.lower S)),
    ("DRIVE", fun ts => (onlyOperand (bitsOf 8) ts).map fun b => expand c (.drive b)),
    ("INIT", noOperand (expand c .init))]

/-- The operands of a line: none where the mnemonic stands alone (R125). -/
def operandParts (text : List Char) : List (List Char) :=
  match trimmed text with
  | [] => []
  | ch :: rest => (commaParts (ch :: rest)).map trimmed

/-- The operations a line of text stands for (R125): none at all where it is empty but for a comment, and no answer where it is no
line of the assembler's language or an operation has no descriptor. -/
def assembleLine (c : Config) (line : String) : Option (List Instr) :=
  match trimmed (line.toList.takeWhile (· != ';')) with
  | [] => some []
  | ch :: rest =>
    match named (readers c) ((ch :: rest).takeWhile (· != ' ')) with
    | none => none
    | some read => (read (operandParts ((ch :: rest).dropWhile (· != ' ')))).filter fun is => is.all (WellFormed c)

/-- The descriptors a line of text assembles to. -/
def assembledWords (c : Config) (line : String) : Option (List Descriptor) := (assembleLine c line).map fun is => is.map encode

end Sys2Proof.Machine
end

