-- ==== Sys2Proof/Machine/Pins.lean ====
section
/-! DEFINITION. What the device can observe: the pin view of a state (10_state.md R37), and, from the event history, the edges
(R37), the bytes the chip latches (20_memory.md R82, 60_exceptions.md R263) and the read strobes that advance its column counter
(R57, R264). None of it is state of NBPE (R58); no operation reads it. -/

namespace Sys2Proof.Machine

/-- The level NBPE drives on a control pin (R37): RDY is never driven; the others carry the latch, unspecified while it is none. -/
def pinLevel (c : Config) (s : State) (S : CtlSignal) : Option Bool :=
  if S = .rdy then none else s.ctlLatch.map fun v => signal c v S

/-- Whether NBPE drives DIO0..DIO7 (R37, R94): it does when the bus is turned out. None where the real direction is unspecified:
after a failed configure call (R144, U6), and after a reset that cut a sequence with the bus turned in, while the state says OUT
(R282). -/
def dioDriven (s : State) : Option Bool := if s.env.lineDir = some s.ioDir then some (s.ioDir == .output) else none

/-- The level NBPE drives on DIOk: none while it drives nothing, while the latch is none, and where the direction is unspecified
(R37, R94). -/
def dioLevel (s : State) (k : PinPos) : Option Bool :=
  if dioDriven s = some true then s.ioLatch.map fun v => v.getLsbD k.toNat else none

/-- An edge of a control signal (R37). -/
inductive Edge where
  | rising
  | falling
  deriving DecidableEq, Repr

/-- The edge a `WrCTL(v)` makes on a signal, given the latch before it (R37): none is defined when that is none. -/
def edge (c : Config) (S : CtlSignal) (before : Option Byte) (v : Byte) : Option Edge :=
  match before with
  | none => none
  | some u =>
    match signal c u S, signal c v S with
    | false, true => some .rising
    | true, false => some .falling
    | false, false => none
    | true, true => none

/-- What the chip takes in at a rising edge of nWE. The byte is none where the lines are not driven or their levels are unknown
(U10, U15). -/
inductive Latched where
  /-- CLE high: a command (R263). -/
  | command (b : Option Byte)
  /-- ALE high: an address byte (R263). -/
  | address (b : Option Byte)
  /-- The spec does not say whether or what the chip latches: CLE and ALE both high (U8), both low, a signal of the three changing in
  the same event, or a write with nWE high while the levels before it were unknown (U10). -/
  | unspecified
  deriving DecidableEq, Repr

/-- What the event history tells of the chip's side of the pins. -/
structure ChipView where
  /-- The byte the control pins carry. -/
  ctl : Option Byte
  /-- The byte in the I/O output latch. -/
  io : Option Byte
  /-- The pin direction of the I/O bus; none where it is unknown (U6, R282). -/
  dir : Option Dir
  /-- What the chip has latched, in order. -/
  latched : List Latched
  /-- Completed nRE toggles while selected: by how much the column counter has advanced (R57). DESIGN CHOICE, log entry 9: only
  edges the spec defines are counted, so the first write after the levels were unknown (R37, U10) counts none. -/
  strobes : Nat
  deriving DecidableEq, Repr

/-- The byte on the I/O lines as NBPE drives them (R37, R94). -/
def ChipView.dioByte (view : ChipView) : Option Byte :=
  if view.dir = some .output then view.io else none

/-- What the chip latches at a rising nWE edge between the control bytes u and v, seeing b on the lines (R82, R262, R263). -/
def latchedAt (c : Config) (u v : Byte) (b : Option Byte) : List Latched :=
  if signal c u .nce != signal c v .nce || signal c u .cle != signal c v .cle || signal c u .ale != signal c v .ale then
    [.unspecified]
  else if signal c v .nce then []
  else
    match signal c v .cle, signal c v .ale with
    | true, false => [.command b]
    | false, true => [.address b]
    | true, true => [.unspecified]
    | false, false => [.unspecified]

/-- What one `WrCTL(v)` makes the chip latch. Where the levels before it are unknown R37 defines no edge and U10 admits any level:
DESIGN CHOICE, log entry 9: such a write latches something unspecified if it leaves nWE high, so that a rise is possible, and
nothing otherwise. -/
def latchedBy (c : Config) (view : ChipView) (v : Byte) : List Latched :=
  match view.ctl, edge c .nwe view.ctl v with
  | some u, some .rising => latchedAt c u v view.dioByte
  | some _, some .falling => []
  | some _, none => []
  | none, _ => if signal c v .nwe then [.unspecified] else []

/-- Whether a `WrCTL(v)` completes an nRE toggle of a selected chip (R57, R262). -/
def strobeEnds (c : Config) (view : ChipView) (v : Byte) : Bool :=
  edge c .nre view.ctl v == some .rising && !signal c v .nce

/-- The view after one event. A control-bus write that the transport fails leaves the pins at any value (R22, U10, U21), and the spec
does not say whether the chip latches a byte or sees a read strobe end there: DESIGN CHOICE, log entry 9: it adds nothing to
`latched` and nothing to `strobes`. -/
def chipEvent (c : Config) (view : ChipView) : Event → ChipView
  | .wrCtl v =>
    { view with
      ctl := some v
      latched := view.latched ++ latchedBy c view v
      strobes := view.strobes + if strobeEnds c view v then 1 else 0 }
  | .wrIo v => { view with io := some v }
  | .rdCtl _ => view
  | .rdIo _ => view
  | .cfgIo d => { view with dir := some d }
  | .delay _ => view
  | .tfail (.write .ctl) => { view with ctl := none }
  | .tfail (.write .io) => { view with io := none }
  | .tfail (.read _) => view
  | .tfail .configIo => { view with dir := none }

/-- The view at reset: no pin level known (R60, D4), and the I/O bus turned as it was on the transport's side when the reset came
(R282), which the history does not tell. -/
def ChipView.start (d : Option Dir) : ChipView := ⟨none, none, d, [], 0⟩

/-- What a history tells of the chip's side of the pins, given how the I/O bus was turned when it began. -/
def chipView (c : Config) (d : Option Dir) (h : List Event) : ChipView := h.foldl (chipEvent c) (ChipView.start d)

/-- The direction set by the last configure call that succeeded. -/
def lastDir (h : List Event) : Option Dir :=
  h.foldl
    (fun d e =>
      match e with
      | .cfgIo d' => some d'
      | .wrCtl _ => d
      | .wrIo _ => d
      | .rdCtl _ => d
      | .rdIo _ => d
      | .delay _ => d
      | .tfail _ => d)
    none

/-- Whether an event is a transport call (R176). -/
def isCall : Event → Bool
  | .wrCtl _ => true
  | .wrIo _ => true
  | .rdCtl _ => true
  | .rdIo _ => true
  | .cfgIo _ => true
  | .delay _ => false
  | .tfail _ => true

/-- How many transport calls a history holds (R176). -/
def transportCalls (h : List Event) : Nat := (h.filter isCall).length

end Sys2Proof.Machine
end

