-- ==== Sys2Proof/Safety.lean ====
section
/-! DEFINITION. What claims are stated in: the invariants of the machine, quiescence and the launch premise
(70_reset_and_hazards.md R286, R307), the coming answers of transport and device, and the event sequences and end states the rules
of 41_protocol_engine.md and 43_flash_operations.md give for an operation that runs to OK. -/

namespace Sys2Proof.Machine

/-- Quiescent (R307): Idle, and the host has no descriptor outstanding. -/
def Quiescent (s : State) : Prop := s.seq = .idle ∧ s.env.program = []

/-- The shared launch premise of R286 (the boot state of R284). -/
def LaunchReady (c : Config) (s : State) : Prop :=
  s.fault = none ∧ s.seq = .idle ∧ s.ctlLatch = some s.ctlShadow ∧ signal c s.ctlShadow .nce = false ∧
    signal c s.ctlShadow .nre = true ∧ signal c s.ctlShadow .nwe = true ∧ signal c s.ctlShadow .cle = false ∧
    signal c s.ctlShadow .ale = false ∧ s.ioDir = .output

/-- The sequencer is Idle or at the read of a busy-poll: where a step of the model can leave it. -/
def SeqOk (c : Config) (s : State) : Prop :=
  match s.seq with
  | .idle => True
  | .run op k _ => (microProgram c op)[k]? = some .poll

/-- Latches, direction and fault are what the event history says, and the I/O bus is turned on the transport's side as the history
makes it from a bus that was turned so when the session began (R35, R33, R47, R22, R282). -/
def Tracks (c : Config) (d : Option Dir) (s : State) : Prop :=
  (chipView c d s.hist).ctl = s.ctlLatch ∧ (chipView c d s.hist).io = s.ioLatch ∧
    (chipView c d s.hist).dir = s.env.lineDir ∧ s.ioDir = (lastDir s.hist).getD .output ∧
    (s.fault = some .transport ↔ ∃ call, Event.tfail call ∈ s.hist)

/-- The state agrees with the event history, however the I/O bus was turned when the session began. -/
def HistOk (c : Config) (s : State) : Prop := ∃ d, Tracks c d s

/-- How many operations the host still has before it: those in its program, and the one in progress. -/
def outstanding (s : State) : Nat :=
  s.env.program.length + match s.seq with
    | .idle => 0
    | .run _ _ _ => 1

/-- Whether the next n transport calls succeed. -/
def Link.grants : Nat → Link → Bool
  | 0, _ => true
  | n + 1, l => l.ask.1 && l.ask.2.grants n

/-- The transport after n calls. -/
def Link.spend : Nat → Link → Link
  | 0, l => l
  | n + 1, l => l.ask.2.spend n

/-- The bytes the next n reads return. -/
def Channel.ahead (free : Nat → Byte) : Nat → Channel → List Byte
  | 0, _ => []
  | n + 1, ch => (ch.draw free).1 :: (ch.draw free).2.ahead free n

/-- The device after n reads. -/
def Channel.skip (free : Nat → Byte) : Nat → Channel → Channel
  | 0, ch => ch
  | n + 1, ch => (ch.draw free).2.skip free n

/-- The next n bytes the device answers on the I/O bus. -/
def State.dioAhead (s : State) (n : Nat) : List Byte := s.env.dioIn.ahead Config.freeDioByte n

/-- The next n bytes read from the control bus. -/
def State.ctlAhead (s : State) (n : Nat) : List Byte := s.env.ctlIn.ahead Config.freeCtlByte n

/-- The environment after a number of transport calls, of which so many were reads of the I/O bus and of the control bus. -/
def State.spend (s : State) (calls dioReads ctlReads : Nat) : State :=
  { s with
    env :=
      { s.env with
        link := s.env.link.spend calls
        dioIn := s.env.dioIn.skip Config.freeDioByte dioReads
        ctlIn := s.env.ctlIn.skip Config.freeCtlByte ctlReads } }

/-- The five events of CMDLATCH from the shadow c0 (R163). -/
def cmdlatchEvents (c : Config) (c0 cmd : Byte) : List Event :=
  [.wrCtl (setSignal c c0 .cle true),
    .wrCtl (setSignal c (setSignal c c0 .cle true) .nwe false),
    .wrIo cmd,
    .wrCtl (setSignal c (setSignal c c0 .cle true) .nwe true),
    .wrCtl (setSignal c (setSignal c c0 .nwe true) .cle false)]

/-- The control shadow CMDLATCH leaves: c0 with CLE=0 and nWE=1 (R163). -/
def cmdlatchShadow (c : Config) (c0 : Byte) : Byte := setSignal c (setSignal c c0 .nwe true) .cle false

/-- The state after the micro-steps of a CMDLATCH that no call failed (R163). -/
def cmdlatchEnd (c : Config) (cmd : Byte) (s : State) : State :=
  { s.spend 5 0 0 with
    ctlShadow := cmdlatchShadow c s.ctlShadow
    ctlLatch := some (cmdlatchShadow c s.ctlShadow)
    ioShadow := cmd
    ioLatch := some cmd
    hist := s.hist ++ cmdlatchEvents c s.ctlShadow cmd }

/-- The control shadow ADDRLATCH leaves: c0 with ALE=0, and nWE=1 if at least one byte was latched (R166). -/
def addrlatchShadow (c : Config) (c0 : Byte) (bytes : List Byte) : Byte :=
  setSignal c (if bytes = [] then c0 else setSignal c c0 .nwe true) .ale false

/-- The six events of one address byte (R166). -/
def addressEvents (c : Config) (c0 b : Byte) : List Event :=
  [.wrCtl (setSignal c (setSignal c c0 .ale true) .nwe false), .delay .settle, .wrIo b, .delay .setup,
    .wrCtl (setSignal c (setSignal c c0 .ale true) .nwe true), .delay .whold]

/-- The events of ADDRLATCH from the shadow c0 (R166). -/
def addrlatchEvents (c : Config) (c0 : Byte) (bytes : List Byte) : List Event :=
  [.wrCtl (setSignal c c0 .ale true)] ++ bytes.flatMap (addressEvents c c0) ++
    [.wrCtl (addrlatchShadow c c0 bytes)]

/-- The state after the micro-steps of an ADDRLATCH that no call failed (R166). -/
def addrlatchEnd (c : Config) (bytes : List Byte) (s : State) : State :=
  { s.spend (2 + 3 * bytes.length) 0 0 with
    ctlShadow := addrlatchShadow c s.ctlShadow bytes
    ctlLatch := some (addrlatchShadow c s.ctlShadow bytes)
    ioShadow := bytes.getLast?.getD s.ioShadow
    ioLatch := bytes.getLast?.or s.ioLatch
    hist := s.hist ++ addrlatchEvents c s.ctlShadow bytes }

/-- The five events of one read cycle (R169). -/
def readEvents (c : Config) (c0 b : Byte) : List Event :=
  [.wrCtl (setSignal c c0 .nre false), .delay .access, .rdIo b, .wrCtl (setSignal c c0 .nre true), .delay .rhold]

/-- The events of LATCHOUT from the shadow c0, given the bytes read (R169). -/
def latchoutEvents (c : Config) (c0 : Byte) (bytes : List Byte) : List Event :=
  [.cfgIo .input] ++ bytes.flatMap (readEvents c c0) ++ [.cfgIo .output]

/-- The state after the micro-steps of a LATCHOUT of n bytes that no call failed (R169). -/
def latchoutEnd (c : Config) (n : Nat) (s : State) : State :=
  { s.spend (2 + 3 * n) n 0 with
    ctlShadow := if n = 0 then s.ctlShadow else setSignal c s.ctlShadow .nre true
    ctlLatch := if n = 0 then s.ctlLatch else some (setSignal c s.ctlShadow .nre true)
    ioDir := .output
    obuf := s.dioAhead n
    hist := s.hist ++ latchoutEvents c s.ctlShadow (s.dioAhead n)
    env := { (s.spend (2 + 3 * n) n 0).env with lineDir := some .output } }

/-- The state after n reads of the control bus by BUSYPOLL (R172). -/
def pollEnd (n : Nat) (s : State) : State :=
  { s.spend n 0 n with hist := s.hist ++ (s.ctlAhead n).map .rdCtl }

/-- The state after the raising or lowering of a control pin that no call failed (R23). -/
def drivePinEnd (c : Config) (S : CtlSignal) (level : Bool) (s : State) : State :=
  { s.spend 1 0 0 with
    ctlShadow := setSignal c s.ctlShadow S level
    ctlLatch := some (setSignal c s.ctlShadow S level)
    hist := s.hist ++ [.wrCtl (setSignal c s.ctlShadow S level)] }

/-- How many transport calls a page read with so many busy-poll reads makes (R176). -/
def pagereadCalls (c : Config) (reads : Nat) : Nat := 5 + 17 + 5 + reads + (2 + 3 * c.pageBytes)

/-- The state after one page read whose busy-poll made so many reads and that no call failed (R212, R213). -/
def pagereadEnd (c : Config) (page : Word) (reads : Nat) (s : State) : State :=
  latchoutEnd c c.pageBytes
    (pollEnd reads
      (cmdlatchEnd c cmdReadConfirm
        (addrlatchEnd c (mapCycles (readAddress c page)) (cmdlatchEnd c cmdReadSetup s))))

/-- The state after n page reads from page index i on, each ready at its first read and handed to the host as it completes (R215). -/
def dumpEnd (c : Config) : Nat → Nat → State → State
  | _, 0, s => s
  | i, n + 1, s => dumpEnd c (i + 1) n (pagereadEnd c (BitVec.ofNat 32 i) 1 s).deliver

/-- The state after the steps of an ERASE whose busy-poll made so many reads and that no call failed (R218, R220). -/
def eraseEnd (c : Config) (block : Word) (reads : Nat) (s : State) : State :=
  drivePinEnd c .nwp false
    (latchoutEnd c 1
      (cmdlatchEnd c cmdReadStatus
        (pollEnd reads
          (cmdlatchEnd c cmdEraseConfirm
            (addrlatchEnd c (rowCycles (eraseAddress c block))
              (cmdlatchEnd c cmdEraseSetup (drivePinEnd c .nwp true s)))))))

/-- How many transport calls an ERASE with so many busy-poll reads makes (R220, R176). -/
def eraseCalls (reads : Nat) : Nat := 1 + 5 + 11 + 5 + reads + 5 + 5 + 1

/-- Operations run one after another, stopping where one stops: a list of descriptors the host issues in order (R307). -/
def execAll : List Instr → State → Host.Outcome State Fault Refusal
  | [], s => .next s
  | i :: is, s =>
    match exec i s with
    | .next s' => execAll is s'
    | .fault r => .fault r
    | .refused r => .refused r

/-- What a step does with operation i takes s to t: its start from Idle, or its continuation from some Run position (R50). -/
def StepOf (i : Instr) (s t : State) : Prop :=
  exec i s = .next t ∨ ∃ k loc, resume Config.standard i k loc s = .next t

/-- What the chip takes in from s to t is a page read (R266, R212): command 0x00, the five address cycles of the page, command 0x30,
and one read strobe per byte of a page. -/
def PagereadSeen (c : Config) (d : Option Dir) (page : Word) (s t : State) : Prop :=
  (chipView c d t.hist).latched =
      (chipView c d s.hist).latched ++ [.command (some 0x00)] ++
        (mapCycles (readAddress c page)).map (fun b => .address (some b)) ++ [.command (some 0x30)] ∧
    (chipView c d t.hist).strobes = (chipView c d s.hist).strobes + c.pageBytes

/-- What the chip takes in from s to t is a block erase (R266, R218, R222): nWP rises first and falls last, and in between the chip
latches command 0x60, the three row cycles, commands 0xD0 and 0x70, and sees one read strobe. -/
def EraseSeen (c : Config) (d : Option Dir) (block : Word) (s t : State) : Prop :=
  (∃ es, t.hist = s.hist ++ [.wrCtl (setSignal c s.ctlShadow .nwp true)] ++ es ++
      [.wrCtl (setSignal c s.ctlShadow .nwp false)] ∧ ∀ v, Event.wrCtl v ∈ es → signal c v .nwp = true) ∧
    (chipView c d t.hist).latched =
      (chipView c d s.hist).latched ++ [.command (some 0x60)] ++
        (rowCycles (eraseAddress c block)).map (fun a => .address (some a)) ++
        [.command (some 0xD0), .command (some 0x70)] ∧
    (chipView c d t.hist).strobes = (chipView c d s.hist).strobes + 1

/-- Two states alike but for what the host was last answered. -/
def SameButResponses (s t : State) : Prop :=
  { s with resp := t.resp, env := { s.env with responses := t.env.responses } } = t

/-- A control byte with its RDY bit taken out of account. -/
def maskRdy (c : Config) (v : Byte) : Byte := setSignal c v .rdy false

/-- An event with the RDY bit of a control-bus WRITE taken out of account; every read stays as it is. -/
def maskEvent (c : Config) : Event → Event
  | .wrCtl v => .wrCtl (maskRdy c v)
  | .wrIo v => .wrIo v
  | .rdCtl v => .rdCtl v
  | .rdIo v => .rdIo v
  | .cfgIo d => .cfgIo d
  | .delay k => .delay k
  | .tfail call => .tfail call

/-- Two states alike but for the RDY bit of the control shadow, of the control latch and of the control bytes written (R44). -/
def AlikeButRdy (c : Config) (s t : State) : Prop :=
  maskRdy c s.ctlShadow = maskRdy c t.ctlShadow ∧ s.ctlLatch.map (maskRdy c) = t.ctlLatch.map (maskRdy c) ∧
    s.hist.map (maskEvent c) = t.hist.map (maskEvent c) ∧ s.ioShadow = t.ioShadow ∧ s.ioDir = t.ioDir ∧
    s.ioLatch = t.ioLatch ∧ s.fault = t.fault ∧ s.seq = t.seq ∧ s.obuf = t.obuf ∧ s.resp = t.resp ∧ s.env = t.env

/-- The control signals whose shadow bit an operation may change (R32, R38 to R45, R175). -/
def mayChange (c : Config) : Instr → List CtlSignal
  | .setpin .io _ _ => []
  | .setpin .ctl pin _ => CtlSignal.all.filter fun S => c.pin S == pin
  | .flush _ => []
  | .read _ => []
  | .setdir _ => []
  | .cmdlatch _ => [.cle, .nwe]
  | .addrlatch _ => [.ale, .nwe]
  | .latchout _ => [.nre]
  | .busypoll => []
  | .map _ => []
  | .identify => [.cle, .ale, .nwe, .nre]
  | .pageread _ => [.cle, .ale, .nwe, .nre]
  | .dump => [.cle, .ale, .nwe, .nre]
  | .erase _ => [.cle, .ale, .nwe, .nre, .nwp]
  | .program => []

/-- The components of the state, for frames. -/
inductive Component where
  | ioShadow
  | ioDir
  | ctlShadow
  | ioLatch
  | ctlLatch
  | fault
  | obuf
  | hist
  | link
  | dioIn
  | ctlIn
  | lineDir
  | stream
  deriving DecidableEq, Repr

/-- The components an operation may write, besides `seq`, `resp` and the responses handed out (R30 to R49, R141 to R144, R162 to
R172, R200, R210 to R224). -/
def mayWrite : Instr → List Component
  | .setpin .io _ _ => [.ioShadow]
  | .setpin .ctl _ _ => [.ctlShadow]
  | .flush .io => [.ioLatch, .fault, .hist, .link]
  | .flush .ctl => [.ctlLatch, .fault, .hist, .link]
  | .read .io => [.fault, .hist, .link, .dioIn]
  | .read .ctl => [.fault, .hist, .link, .ctlIn]
  | .setdir _ => [.ioDir, .fault, .hist, .link, .lineDir]
  | .cmdlatch _ => [.ioShadow, .ctlShadow, .ioLatch, .ctlLatch, .fault, .hist, .link]
  | .addrlatch _ => [.ioShadow, .ctlShadow, .ioLatch, .ctlLatch, .fault, .hist, .link]
  | .latchout _ => [.ioDir, .ctlShadow, .ctlLatch, .fault, .obuf, .hist, .link, .dioIn, .lineDir]
  | .busypoll => [.fault, .hist, .link, .ctlIn]
  | .map _ => []
  | .identify => [.ioShadow, .ioDir, .ctlShadow, .ioLatch, .ctlLatch, .fault, .obuf, .hist, .link, .dioIn, .lineDir]
  | .pageread _ =>
    [.ioShadow, .ioDir, .ctlShadow, .ioLatch, .ctlLatch, .fault, .obuf, .hist, .link, .dioIn, .ctlIn, .lineDir]
  | .dump =>
    [.ioShadow, .ioDir, .ctlShadow, .ioLatch, .ctlLatch, .fault, .obuf, .hist, .link, .dioIn, .ctlIn, .lineDir, .stream]
  | .erase _ =>
    [.ioShadow, .ioDir, .ctlShadow, .ioLatch, .ctlLatch, .fault, .obuf, .hist, .link, .dioIn, .ctlIn, .lineDir]
  | .program => []

/-- A component is the same in two states. -/
def unchanged (s t : State) : Component → Prop
  | .ioShadow => t.ioShadow = s.ioShadow
  | .ioDir => t.ioDir = s.ioDir
  | .ctlShadow => t.ctlShadow = s.ctlShadow
  | .ioLatch => t.ioLatch = s.ioLatch
  | .ctlLatch => t.ctlLatch = s.ctlLatch
  | .fault => t.fault = s.fault
  | .obuf => t.obuf = s.obuf
  | .hist => t.hist = s.hist
  | .link => t.env.link = s.env.link
  | .dioIn => t.env.dioIn = s.env.dioIn
  | .ctlIn => t.env.ctlIn = s.env.ctlIn
  | .lineDir => t.env.lineDir = s.env.lineDir
  | .stream => t.env.stream = s.env.stream

/-- The statuses an operation can end with (R242). -/
def possibleStatuses (c : Config) : Instr → List Status
  | .setpin _ _ _ => [.ok]
  | .flush _ => [.ok, .transport]
  | .read _ => [.ok, .transport]
  | .setdir _ => [.ok, .transport]
  | .cmdlatch _ => [.ok, .precondition, .transport]
  | .addrlatch _ => [.ok, .precondition, .transport]
  | .latchout _ => [.ok, .precondition, .transport]
  | .busypoll =>
    [.ok, .transport] ++ (if c.busypollNceCheck then [.precondition] else []) ++
      (if c.pollLimit.isSome then [.unresponsive] else [])
  | .map _ => [.ok]
  | .identify => [.ok, .idMismatch, .precondition, .transport]
  | .pageread _ => [.ok, .precondition, .transport] ++ (if c.pollLimit.isSome then [.unresponsive] else [])
  | .dump => [.ok, .precondition, .transport] ++ (if c.pollLimit.isSome then [.unresponsive] else [])
  | .erase _ =>
    [.ok, .eraseFail, .precondition, .transport] ++ (if c.pollLimit.isSome then [.unresponsive] else [])
  | .program => [.notImplemented]

/-- The operations the sticky fault stops (R245, R248): all but SETPIN, MAP and PROGRAM. -/
def touchesHardware : Instr → Bool
  | .setpin _ _ _ => false
  | .flush _ => true
  | .read _ => true
  | .setdir _ => true
  | .cmdlatch _ => true
  | .addrlatch _ => true
  | .latchout _ => true
  | .busypoll => true
  | .map _ => false
  | .identify => true
  | .pageread _ => true
  | .dump => true
  | .erase _ => true
  | .program => false

end Sys2Proof.Machine
end

