-- ==== Sys2Proof/Certificates/Slice0/Obligations.lean ====
section
/-! DEFINITION. The statements for the provers. Each docstring names the rule or section of spec/ it formalises; where a
statement rests on a choice the spec marks as its own, or on one of this model's log entries, the docstring says so. -/

open Sys2Proof Sys2Proof.Machine

/-! ### Reset and the host interface -/

/-- Reset (10_state.md section 9, 70_reset_and_hazards.md section 1): every component at its reset value, no pin level known, and
a reset at any time gives the same components and leaves the other agents as they were. The values of `IO.dir`, the latches,
`fault`, `seq`, `obuf`, `resp` and `H` are the spec's own decisions D3, D4, D5, D9. -/
def Obligations.ResetValues : Prop :=
  State.reset.ioShadow = 0x00 ∧ State.reset.ctlShadow = 0x00 ∧ State.reset.ioDir = .output ∧
    State.reset.ioLatch = none ∧ State.reset.ctlLatch = none ∧ State.reset.fault = none ∧
    State.reset.seq = .idle ∧ State.reset.obuf = [] ∧ State.reset.resp = ⟨.ok, []⟩ ∧ State.reset.hist = [] ∧
    (∀ S, pinLevel Config.standard State.reset S = none) ∧ (∀ k, dioLevel State.reset k = none) ∧
    ∀ s : State, s.sessionStart = { State.reset with env := s.env }

/-- Reset may be applied at any time, between any two micro-steps of an operation too (70_reset_and_hazards.md section 1): the step
then gives the ten components of reset and leaves the other agents as the micro-steps before it left them; applied at once, it
leaves them untouched. Decision D4; the reset input as a list is this model's (log entry 8). -/
def Obligations.ResetAppliedAtAnyTime : Prop :=
  ∀ s : State,
    (∀ n, resetDue s = some n →
      step s = .next { State.reset with env := (advances Config.standard n s.afterSampling).env }) ∧
    (resetDue s = some 0 → step s = .next { State.reset with env := { s.env with resetIn := s.env.resetIn.tail } })

/-- Reset inside CMDLATCH, ADDRLATCH or LATCHOUT (70_reset_and_hazards.md section 1, and section 3 on partial sequences; decision
D4): cut after any number of their micro-steps, the pins have been given exactly the first events of the sequence, no response is
made, and the I/O bus stays as it was turned on the transport's side: in, after a LATCHOUT cut inside its loop, so that what NBPE
drives is then not known although `IO.dir` = OUT. The advance that accepts the descriptor and the check come before the first event
(log entry 8). -/
def Obligations.ResetCutsSequence : Prop :=
  ∀ (n : Nat) (s : State) (rest : List Descriptor), s.seq = .idle → s.fault = none → resetDue s = some (n + 2) →
    (∀ cmd, s.env.program = encode (.cmdlatch cmd) :: rest → signal Config.standard s.ctlShadow .nce = false →
      signal Config.standard s.ctlShadow .nre = true → s.env.link.grants 5 = true →
      n ≤ (cmdlatchEvents Config.standard s.ctlShadow cmd).length →
      ∃ t, step s = .next t ∧ t.seq = .idle ∧ t.hist = [] ∧ t.env.responses = s.env.responses ∧
        t.env.program = rest ∧ t.env.lineDir = s.env.lineDir ∧
        (advances Config.standard (n + 2) s.afterSampling).hist =
          s.hist ++ (cmdlatchEvents Config.standard s.ctlShadow cmd).take n) ∧
    (∀ bytes, bytes.length ≤ 5 → s.env.program = encode (.addrlatch bytes) :: rest →
      signal Config.standard s.ctlShadow .nce = false → signal Config.standard s.ctlShadow .cle = false →
      signal Config.standard s.ctlShadow .nre = true → s.env.link.grants (2 + 3 * bytes.length) = true →
      n ≤ (addrlatchEvents Config.standard s.ctlShadow bytes).length →
      ∃ t, step s = .next t ∧ t.seq = .idle ∧ t.hist = [] ∧ t.env.responses = s.env.responses ∧
        t.env.program = rest ∧ t.env.lineDir = s.env.lineDir ∧
        (advances Config.standard (n + 2) s.afterSampling).hist =
          s.hist ++ (addrlatchEvents Config.standard s.ctlShadow bytes).take n) ∧
    ∀ m : Word, s.env.program = encode (.latchout m) :: rest →
      signal Config.standard s.ctlShadow .nce = false → signal Config.standard s.ctlShadow .nwe = true →
      signal Config.standard s.ctlShadow .ale = false → s.env.link.grants (2 + 3 * m.toNat) = true →
      n ≤ (latchoutEvents Config.standard s.ctlShadow (s.dioAhead m.toNat)).length →
      ∃ t, step s = .next t ∧ t.seq = .idle ∧ t.hist = [] ∧ t.env.responses = s.env.responses ∧
        t.env.program = rest ∧
        (0 < n → n ≤ 1 + 5 * m.toNat → t.env.lineDir = some .input ∧ t.ioDir = .output ∧ dioDriven t = none) ∧
        (advances Config.standard (n + 2) s.afterSampling).hist =
          s.hist ++ (latchoutEvents Config.standard s.ctlShadow (s.dioAhead m.toNat)).take n

/-- The boot sequence INIT from the reset state (70_reset_and_hazards.md section 2, decisions D2 and D4), whatever the device and
the host, provided the transport accepts the one write: 0x18 in shadow and latch, one event, and the launch premise holds. -/
def Obligations.BootSequenceReachesLaunch : Prop :=
  ∀ e : Env, e.link.grants 1 = true →
    ∃ t, execAll (expand Config.standard .init) { State.reset with env := e } = .next t ∧ t.ctlShadow = 0x18 ∧
      t.ctlLatch = some 0x18 ∧ t.hist = [.wrCtl 0x18] ∧ LaunchReady Config.standard t

/-- What the checks say straight after reset (70_reset_and_hazards.md section 2): CMDLATCH, ADDRLATCH and LATCHOUT fail their
precondition; BUSYPOLL does not. -/
def Obligations.ResetStateChecks : Prop :=
  ∀ (s : State) (cmd : Byte) (bytes : List Byte) (n : Word),
    exec (.cmdlatch cmd) s.sessionStart = .next (s.sessionStart.respond ⟨.precondition, []⟩) ∧
    exec (.addrlatch bytes) s.sessionStart = .next (s.sessionStart.respond ⟨.precondition, []⟩) ∧
    exec (.latchout n) s.sessionStart = .next (s.sessionStart.respond ⟨.precondition, []⟩) ∧
    ∃ t, exec .busypoll s.sessionStart = .next t ∧ t.resp.status ≠ .precondition

/-- A STEP RUNS THE DECODED OPERATION: in Idle, the reset input not applied, the descriptor at the head of the host's program is
taken and executed (10_state.md section 5, 30_encoding.md section 4). -/
def Obligations.StepRunsDecodedOperation : Prop :=
  ∀ (s : State) (W : Descriptor) (rest : List Descriptor) (i : Instr), resetDue s = none → s.seq = .idle →
    s.env.program = W :: rest → decode Config.standard W = .ok i →
    step s = exec i { s with env := { s.env with resetIn := s.env.resetIn.tail, program := rest } }

/-- An illegal descriptor is answered ILLEGAL with no data and nothing else of the ten components changes (30_encoding.md section 4,
60_exceptions.md section 4). The encoding and the status are the spec's own decisions D6 and D7. -/
def Obligations.IllegalDescriptorAnswered : Prop :=
  ∀ (s : State) (W : Descriptor) (rest : List Descriptor) (e : DecodeError), resetDue s = none → s.seq = .idle →
    s.env.program = W :: rest → decode Config.standard W = .error e →
    step s = .next (State.respond { s with env := { s.env with resetIn := s.env.resetIn.tail, program := rest } } ⟨.illegal, []⟩)

/-- While an operation runs the step continues it and takes no descriptor (10_state.md section 5; 93_implementation_defined.md U9);
past the end of the micro-program there is no step, and the model faults by name (log entry 3). -/
def Obligations.RunningStepGoesOn : Prop :=
  ∀ (s : State) (op : Instr) (k : Nat) (loc : Locals), resetDue s = none → s.seq = .run op k loc →
    if k < (microProgram Config.standard op).length then
      step s = .next (runMicros Config.standard op ((microProgram Config.standard op).drop k) k loc s.afterSampling)
    else step s = .fault .seqPastEnd

/-- No operation is accepted while another runs (93_implementation_defined.md U9: refuse). -/
def Obligations.NoOperationUnlessIdle : Prop :=
  ∀ (i : Instr) (s : State) (op : Instr) (k : Nat) (loc : Locals), s.seq = .run op k loc →
    exec i s = .refused .notIdle

/-- A quiescent machine whose reset input is not applied waits (70_reset_and_hazards.md section 5, decision D27). -/
def Obligations.QuiescentMachineWaits : Prop :=
  ∀ s : State, Quiescent s → resetDue s = none → step s = .next s.afterSampling

/-! ### Encoding -/

/-- A few descriptors written out from the spec's formats (95_test_vectors.md section 2.1), one or more per family. -/
def Obligations.SpecWordsDecode : Prop :=
  decode Config.standard 0x1100000000000017 = .ok (.setpin .ctl 3 true) ∧
    decode Config.standard 0x1300000000000001 = .ok (.read .ctl) ∧
    decode Config.standard 0x2100000000000090 = .ok (.cmdlatch 0x90) ∧
    decode Config.standard 0x220005020FFF07C0 = .ok (.addrlatch [0xC0, 0x07, 0xFF, 0x0F, 0x02]) ∧
    decode Config.standard 0x2300000000000840 = .ok (.latchout 2112) ∧
    decode Config.standard 0x4100000012345678 = .ok (.map 0x12345678) ∧
    decode Config.standard 0x520000000003FFFF = .ok (.pageread 262143) ∧
    decode Config.standard 0x2200060000000000 = .error (.addressCount 6)

/-- DECODE AND ENCODE AGREE: under every configuration, for every well-formed operation of every family with every operand
(30_encoding.md sections 1 to 4; the encoding is decision D6). -/
def Obligations.DecodeOfEncodeIsIdentity : Prop :=
  ∀ (c : Config) (i : Instr), WellFormed c i = true → decode c (encode i) = .ok i

/-- Decoding followed by encoding is the identity on legal descriptors, and only well-formed operations are decoded
(30_encoding.md section 4; decision D6). -/
def Obligations.EncodeOfDecodeIsIdentity : Prop :=
  ∀ (c : Config) (W : Descriptor) (i : Instr), decode c W = .ok i → encode i = W ∧ WellFormed c i = true

/-- The match and mask constants select the operation (30_encoding.md section 3; decision D6): but for ADDRLATCH, which has further
conditions, a descriptor meets an operation's pair exactly when it decodes to that operation; ADDRLATCH needs its pair. -/
def Obligations.MatchAndMaskSelect : Prop :=
  (∀ (W : Descriptor) (i : Instr), (∀ bytes, i ≠ .addrlatch bytes) →
    (W &&& maskWord i = matchWord i ↔ ∃ j, decode Config.standard W = .ok j ∧ opcode j = opcode i)) ∧
  ∀ (W : Descriptor) (bytes : List Byte), decode Config.standard W = .ok (.addrlatch bytes) →
    W &&& maskWord (.addrlatch bytes) = matchWord (.addrlatch bytes)

/-! ### Family BP -/

/-- SETPIN (40_bus_primitive.md R141): op 0x11, format P; always OK, one shadow bit, the other seven kept, no other component, no
event, whatever the fault and the direction; the RDY bit reaches no pin. -/
def Obligations.SetpinAnswers : Prop :=
  ∀ (bus : Bus) (pin : PinPos) (on : Bool),
    decode Config.standard (0x11#8 ++ 0#51 ++ BitVec.ofBool (bitOfBus bus) ++ pin ++ BitVec.ofBool on) =
      .ok (.setpin bus pin on) ∧
    ∀ s : State, s.seq = .idle → ∃ v : Byte, (∀ j < 8, v.getLsbD j = if j = pin.toNat then on else (s.shadow bus).getLsbD j) ∧
      exec (.setpin bus pin on) s = .next ((s.setShadow bus v).respond ⟨.ok, []⟩) ∧
      pinLevel Config.standard ((s.setShadow bus v).respond ⟨.ok, []⟩) .rdy = none

/-- FLUSH (40_bus_primitive.md R142): op 0x12, format B; with the fault set, TRANSPORT and nothing else; else the shadow to the
latch, one event and OK, the RDY pin not driven, no DIO pin driven while the bus is turned in, no edge where shadow and latch were
equal; or, when the call fails, TRANSPORT, the fault, the latch none, the shadow kept. -/
def Obligations.FlushAnswers : Prop :=
  ∀ bus : Bus, decode Config.standard (0x12#8 ++ 0#55 ++ BitVec.ofBool (bitOfBus bus)) = .ok (.flush bus) ∧
    ∀ s : State, s.seq = .idle →
    (s.fault ≠ none → exec (.flush bus) s = .next (s.respond ⟨.transport, []⟩)) ∧
    (s.fault = none → s.env.link.ask.1 = true →
      ∃ t, exec (.flush bus) s = .next t ∧
        t = State.respond { (s.setLatch bus (some (s.shadow bus))) with
              hist := s.hist ++ [writeEvent bus (s.shadow bus)]
              env := { s.env with link := s.env.link.ask.2 } } ⟨.ok, []⟩ ∧
        pinLevel Config.standard t .rdy = none ∧ (s.ioDir = .input → ∀ k, dioLevel t k = none) ∧
        (s.ctlLatch = some s.ctlShadow → ∀ S, edge Config.standard S s.ctlLatch s.ctlShadow = none)) ∧
    (s.fault = none → s.env.link.ask.1 = false →
      exec (.flush bus) s =
        .next (State.respond { (s.setLatch bus none) with
          fault := some .transport
          hist := s.hist ++ [.tfail (.write bus)]
          env := { s.env with link := s.env.link.ask.2 } } ⟨.transport, []⟩))

/-- READ (40_bus_primitive.md, the rule of READ): op 0x13, format B; with the fault set, TRANSPORT; else the byte the environment supplies,
whatever it is, in one event and one data byte, no shadow, latch or direction changed, nothing for the chip to see; or, when the
call fails, TRANSPORT and the fault. That the failed call leaves the device's coming bytes as they were is this model's choice (log
entry 17, DESIGN CHOICE). -/
def Obligations.ReadAnswers : Prop :=
  ∀ bus : Bus, decode Config.standard (0x13#8 ++ 0#55 ++ BitVec.ofBool (bitOfBus bus)) = .ok (.read bus) ∧
    ∀ s : State, s.seq = .idle →
    (s.fault ≠ none → exec (.read bus) s = .next (s.respond ⟨.transport, []⟩)) ∧
    (s.fault = none → s.env.link.ask.1 = true →
      ∃ v : Byte, v = ((s.channel bus).draw (freeByte bus)).1 ∧
      exec (.read bus) s =
        .next (State.respond
          { (s.setLink s.env.link.ask.2).setChannel bus ((s.channel bus).draw (freeByte bus)).2 with
            hist := s.hist ++ [readEvent bus v] } ⟨.ok, [v]⟩) ∧
      ∀ d, chipView Config.standard d (s.hist ++ [readEvent bus v]) = chipView Config.standard d s.hist) ∧
    (s.fault = none → s.env.link.ask.1 = false →
      exec (.read bus) s =
        .next (State.respond { s with
          fault := some .transport
          hist := s.hist ++ [.tfail (.read bus)]
          env := { s.env with link := s.env.link.ask.2 } } ⟨.transport, []⟩))

/-- SETDIR (40_bus_primitive.md section on SETDIR; decision D21 for the direction already in force): the same shape; on failure
`IO.dir` keeps its value, while the real direction, and so what NBPE drives on the I/O lines, is unspecified
(93_implementation_defined.md U6). -/
def Obligations.SetdirAnswers : Prop :=
  ∀ (d : Dir) (s : State), s.seq = .idle →
    (s.fault ≠ none → exec (.setdir d) s = .next (s.respond ⟨.transport, []⟩)) ∧
    (s.fault = none → s.env.link.ask.1 = true →
      exec (.setdir d) s =
        .next (State.respond { s with
          ioDir := d
          hist := s.hist ++ [.cfgIo d]
          env := { s.env with link := s.env.link.ask.2, lineDir := some d } } ⟨.ok, []⟩)) ∧
    (s.fault = none → s.env.link.ask.1 = false →
      ∃ t, exec (.setdir d) s = .next t ∧
        t = State.respond { s with
          fault := some .transport
          hist := s.hist ++ [.tfail .configIo]
          env := { s.env with link := s.env.link.ask.2, lineDir := none } } ⟨.transport, []⟩ ∧
        dioDriven t = none ∧ ∀ k, dioLevel t k = none)

/-! ### Family PE -/

/-- CMDLATCH (41_protocol_engine.md R163): its micro-program and the state names after each micro-step; and, from Idle with no
fault, nCE=0 and nRE=1, five accepted writes: exactly the five events, CLE=0, nWE=1, the byte in shadow and latch, everything else
unchanged. -/
def Obligations.CmdlatchCompletes : Prop :=
  ∀ cmd : Byte,
    microProgram Config.standard (.cmdlatch cmd) =
      [.check cmdlatchPre, .raise .cle, .lower .nwe, .drive cmd, .raise .nwe, .lower .cle, .answer .done] ∧
    (∀ loc, [1, 2, 3, 4, 5, 6].map (fun k => position (.run (.cmdlatch cmd) k loc)) =
      [.idle, .cleHigh, .strobeLow 0, .dataSet 0, .strobeHigh 0, .cleLow]) ∧
    ∀ s : State, s.seq = .idle → s.fault = none → signal Config.standard s.ctlShadow .nce = false →
      signal Config.standard s.ctlShadow .nre = true → s.env.link.grants 5 = true →
      exec (.cmdlatch cmd) s = .next ((cmdlatchEnd Config.standard cmd s).respond ⟨.ok, []⟩)

/-- ADDRLATCH (41_protocol_engine.md section 3, the empty list included), for a list of any length: from Idle with no fault, nCE=0,
CLE=0, nRE=1 and 2 + 3n accepted writes, exactly the events, ALE=0, nWE=1 if a byte was latched, the last byte in shadow and latch,
everything else unchanged. -/
def Obligations.AddrlatchCompletes : Prop :=
  ∀ (bytes : List Byte) (s : State), s.seq = .idle → s.fault = none →
    signal Config.standard s.ctlShadow .nce = false → signal Config.standard s.ctlShadow .cle = false →
    signal Config.standard s.ctlShadow .nre = true → s.env.link.grants (2 + 3 * bytes.length) = true →
    exec (.addrlatch bytes) s = .next ((addrlatchEnd Config.standard bytes s).respond ⟨.ok, []⟩)

/-- LATCHOUT (41_protocol_engine.md R169): the state names of its positions; and, from Idle with no fault, nCE=0, nWE=1, ALE=0 and
2 + 3n accepted calls: exactly the events, the n bytes read in order in `obuf` and in the response, the direction OUT, nRE=1 if
n > 0, the control latch written if n > 0, the I/O shadow and latch and everything else unchanged. -/
def Obligations.LatchoutCompletes : Prop :=
  ∀ n : Word,
    (∀ loc i, i < n.toNat →
      [0, 1, 2, 3, 4].map (fun j => position (.run (.latchout n) (3 + 5 * i + j) loc)) =
        [.strobeLow i, .accessed i, .sampled i, .strobeHigh i, .held i]) ∧
    (∀ loc, position (.run (.latchout n) 2 loc) = .dirIn ∧
      position (.run (.latchout n) (3 + 5 * n.toNat) loc) = .dirOut) ∧
    ∀ s : State, s.seq = .idle → s.fault = none → signal Config.standard s.ctlShadow .nce = false →
      signal Config.standard s.ctlShadow .nwe = true → signal Config.standard s.ctlShadow .ale = false →
      s.env.link.grants (2 + 3 * n.toNat) = true →
      exec (.latchout n) s =
        .next ((latchoutEnd Config.standard n.toNat s).respond ⟨.ok, s.dioAhead n.toNat⟩)

/-- BUSYPOLL whose first read is ready (41_protocol_engine.md section 5): one read, OK, nothing else changed. -/
def Obligations.BusypollCompletesWhenReady : Prop :=
  ∀ s : State, s.seq = .idle → s.fault = none → signal Config.standard s.ctlShadow .nce = false →
    s.env.link.grants 1 = true → (s.ctlAhead 1).map (ready Config.standard) = [true] →
    exec .busypoll s = .next ((pollEnd 1 s).respond ⟨.ok, []⟩)

/-- BUSYPOLL answers at the first ready read (41_protocol_engine.md section 5): with n reads not ready and the next one ready, n + 1
steps from the issue of the descriptor make exactly the n + 1 reads and end with OK; no shadow, latch or direction is written. One
step per read is this model's choice (log entry 3). -/
def Obligations.BusypollAnswersAtFirstReadyRead : Prop :=
  ∀ (n : Nat) (s : State) (rest : List Descriptor), s.seq = .idle → s.fault = none →
    signal Config.standard s.ctlShadow .nce = false → s.env.resetIn = [] → s.env.program = encode .busypoll :: rest →
    s.env.link.grants (n + 1) = true →
    (s.ctlAhead (n + 1)).map (ready Config.standard) = List.replicate n false ++ [true] →
    Sys2Proof.core.run (n + 1) s =
      .next ((pollEnd (n + 1) { s with env := { s.env with program := rest } }).respond ⟨.ok, []⟩)

/-- The hang (60_exceptions.md section 4 on the unbounded wait, POLL_LIMIT = none): while every read is not ready the operation
goes on reading, answers nothing and accepts nothing, for any number of steps, one read each (log entry 3). -/
def Obligations.BusypollNeverAnswersUnready : Prop :=
  ∀ (n p : Nat) (v : List Byte) (m : Nat) (s : State), s.seq = .run .busypoll 1 ⟨p, v, m⟩ → s.env.resetIn = [] →
    s.env.link.grants n = true → (s.ctlAhead n).map (ready Config.standard) = List.replicate n false →
    Sys2Proof.core.run n s = .next { pollEnd n s with seq := .run .busypoll 1 ⟨p + n, v, m⟩ }

/-- With POLL_LIMIT = some L (41_protocol_engine.md section 5, decision D16) and L reads that are not ready, exactly L reads are
made, then UNRESPONSIVE; the pins are left as they were. One step per read is this model's choice (log entry 3). -/
def Obligations.PollLimitGivesUp : Prop :=
  ∀ (c : Config) (L : Nat) (s : State) (rest : List Descriptor), c.pollLimit = some L → 0 < L → s.seq = .idle →
    s.fault = none → (c.busypollNceCheck = true → signal c s.ctlShadow .nce = false) → s.env.resetIn = [] →
    s.env.program = encode .busypoll :: rest → s.env.link.grants L = true →
    (s.ctlAhead L).map (ready c) = List.replicate L false →
    stepsWith c L s =
      .next ((pollEnd L { s with env := { s.env with program := rest } }).respond ⟨.unresponsive, []⟩)

/-- PRECONDITION (60_exceptions.md section 4): a listed signal without its required level in the shadow gives (PRECONDITION, []),
and nothing else changes: no event, no pin, no fault. That BUSYPOLL checks nCE is the default of BUSYPOLL_NCE_CHECK, the spec's own
decision D8 (log entry 6). -/
def Obligations.PreconditionRefuses : Prop :=
  ∀ s : State, s.seq = .idle → s.fault = none →
    (∀ cmd, signal Config.standard s.ctlShadow .nce = true ∨ signal Config.standard s.ctlShadow .nre = false →
      exec (.cmdlatch cmd) s = .next (s.respond ⟨.precondition, []⟩)) ∧
    (∀ bytes, signal Config.standard s.ctlShadow .nce = true ∨ signal Config.standard s.ctlShadow .cle = true ∨
        signal Config.standard s.ctlShadow .nre = false →
      exec (.addrlatch bytes) s = .next (s.respond ⟨.precondition, []⟩)) ∧
    (∀ n, signal Config.standard s.ctlShadow .nce = true ∨ signal Config.standard s.ctlShadow .nwe = false ∨
        signal Config.standard s.ctlShadow .ale = true →
      exec (.latchout n) s = .next (s.respond ⟨.precondition, []⟩)) ∧
    (signal Config.standard s.ctlShadow .nce = true → exec .busypoll s = .next (s.respond ⟨.precondition, []⟩))

/-- The precondition table (60_exceptions.md R247), under every configuration with distinct pins: an operation issued with no fault
answers PRECONDITION exactly when one of its listed signals is wrong in the shadow, so nothing else is checked (nWP, LED, RDY, the
direction, the I/O shadow, the latches); BUSYPOLL checks only with BUSYPOLL_NCE_CHECK; family BP, MAP and PROGRAM never do; the
macros do exactly when their first CMDLATCH does (ERASE once its write of nWP was accepted). -/
def Obligations.PreconditionTable : Prop :=
  ∀ (c : Config) (i : Instr) (s : State), c.wellFormed = true → s.fault = none → (perform c i s).seq = .idle →
    ((perform c i s).resp.status = .precondition ↔
      match i with
      | .cmdlatch _ => signal c s.ctlShadow .nce = true ∨ signal c s.ctlShadow .nre = false
      | .addrlatch _ =>
        signal c s.ctlShadow .nce = true ∨ signal c s.ctlShadow .cle = true ∨ signal c s.ctlShadow .nre = false
      | .latchout _ =>
        signal c s.ctlShadow .nce = true ∨ signal c s.ctlShadow .nwe = false ∨ signal c s.ctlShadow .ale = true
      | .busypoll => c.busypollNceCheck = true ∧ signal c s.ctlShadow .nce = true
      | .identify => signal c s.ctlShadow .nce = true ∨ signal c s.ctlShadow .nre = false
      | .pageread _ => signal c s.ctlShadow .nce = true ∨ signal c s.ctlShadow .nre = false
      | .dump => c.nPages ≠ 0 ∧ (signal c s.ctlShadow .nce = true ∨ signal c s.ctlShadow .nre = false)
      | .erase _ =>
        s.env.link.ask.1 = true ∧ (signal c s.ctlShadow .nce = true ∨ signal c s.ctlShadow .nre = false)
      | .setpin _ _ _ => False
      | .flush _ => False
      | .read _ => False
      | .setdir _ => False
      | .map _ => False
      | .program => False)

/-- The sticky fault (60_exceptions.md section 4, decisions D9 and D26): every operation but SETPIN, MAP and PROGRAM answers
(TRANSPORT, []) at once and touches nothing. -/
def Obligations.StickyFaultRefuses : Prop :=
  ∀ (i : Instr) (s : State), s.seq = .idle → s.fault = some .transport → touchesHardware i = true →
    exec i s = .next (s.respond ⟨.transport, []⟩)

/-- A failed transport call (41_protocol_engine.md section 6, 60_exceptions.md section 4, decision D9), whether in the step that
begins an operation or in one that continues it after a busy wait: an operation in which the fault is set ends there, answers
TRANSPORT (with no data but for DUMP), its last event names the call, and a bus whose write failed has latch none. Conversely an
operation that was without the fault answers TRANSPORT only so. -/
def Obligations.TransportFailureStops : Prop :=
  ∀ (i : Instr) (s t : State), StepOf i s t → s.fault = none →
    (t.fault = some .transport →
      t.seq = .idle ∧ t.resp.status = .transport ∧ (i ≠ .dump → t.resp.data = []) ∧
      ∃ call, t.hist.getLast? = some (.tfail call) ∧ ∀ bus, call = .write bus → t.latch bus = none) ∧
    (t.seq = .idle → t.resp.status = .transport → t.fault = some .transport)

/-! ### Family AM -/

/-- MAP (42_address_mapper.md R200): op 0x41, format W; OK and the five bit slices, c1 and c4 zero-extended; only `resp` is
written; whatever the fault and the control signals. -/
def Obligations.MapAnswers : Prop :=
  ∀ a : Word, decode Config.standard (0x41#8 ++ 0#24 ++ a) = .ok (.map a) ∧
    ∀ s : State, s.seq = .idle → exec (.map a) s =
      .next (s.respond ⟨.ok,
        [BitVec.ofNat 8 (a.toNat % 256), BitVec.ofNat 8 (a.toNat / 2 ^ 8 % 16), BitVec.ofNat 8 (a.toNat / 2 ^ 12 % 256),
          BitVec.ofNat 8 (a.toNat / 2 ^ 20 % 256), BitVec.ofNat 8 (a.toNat / 2 ^ 28 % 4)]⟩)

/-- Column and row read back (42_address_mapper.md, on reading the result): the weighted sum of the cycles is the address without
bits 31 and 30, and those bits do not matter. -/
def Obligations.MapInverse : Prop :=
  ∀ a : Word,
    (∃ c0 c1 c2 c3 c4 : Byte, mapCycles a = [c0, c1, c2, c3, c4] ∧
      c0.toNat + c1.toNat * 2 ^ 8 + c2.toNat * 2 ^ 12 + c3.toNat * 2 ^ 20 + c4.toNat * 2 ^ 28 = a.toNat % 2 ^ 30) ∧
    mapCycles a = mapCycles (a &&& 0x3FFFFFFF) ∧
    ∀ b : Word, a.toNat < 2 ^ 30 → b.toNat < 2 ^ 30 → mapCycles a = mapCycles b → a = b

/-- The cycles PAGEREAD sends for a page of the geometry (43_flash_operations.md section 2): column (2112 p) mod 4096 and row
2112 p / 4096, at most 135167; no product wraps and no address bit is discarded (42_address_mapper.md). -/
def Obligations.PagereadAddressSent : Prop :=
  ∀ p : Word, p.toNat < Config.standard.nPages →
    (readAddress Config.standard p).toNat = 2112 * p.toNat ∧ 2112 * p.toNat < 2 ^ 30 ∧
    ∃ c0 c1 c2 c3 c4 : Byte, mapCycles (readAddress Config.standard p) = [c0, c1, c2, c3, c4] ∧
      c0.toNat + 256 * c1.toNat = 2112 * p.toNat % 4096 ∧
      c2.toNat + 256 * c3.toNat + 65536 * c4.toNat = 2112 * p.toNat / 4096 ∧ 2112 * p.toNat / 4096 ≤ 135167

/-- The row cycles ERASE sends, for every 32-bit block index (43_flash_operations.md section 3), and the row they make up for a
block of the geometry: 32 b. -/
def Obligations.EraseRowSent : Prop :=
  ∀ b : Word,
    rowCycles (eraseAddress Config.standard b) =
      [BitVec.ofNat 8 (b.toNat % 8 * 32), BitVec.ofNat 8 (b.toNat / 8 % 256), BitVec.ofNat 8 (b.toNat / 2048 % 4)] ∧
    (b.toNat < Config.standard.totalBlocks →
      b.toNat % 8 * 32 + 256 * (b.toNat / 8 % 256) + 65536 * (b.toNat / 2048 % 4) = 32 * b.toNat)

/-! ### Family FO -/

/-- IDENTIFY (43_flash_operations.md section 1): from Idle with no fault, nCE=0, nRE=1 and the 27 calls accepted, the end state of
its three steps, the five bytes read as data, OK exactly when they are ID_EXPECTED, whatever that is (log entry 5). -/
def Obligations.IdentifyCompletes : Prop :=
  ∀ s : State, s.seq = .idle → s.fault = none → signal Config.standard s.ctlShadow .nce = false →
    signal Config.standard s.ctlShadow .nre = true → s.env.link.grants 27 = true →
    exec .identify s =
      .next ((latchoutEnd Config.standard 5
          (addrlatchEnd Config.standard [0x00] (cmdlatchEnd Config.standard 0x90 s))).respond
        ⟨if s.dioAhead 5 = Config.idSignature.toList then .ok else .idMismatch, s.dioAhead 5⟩)

/-- IDENTIFY IS ITS EXPANSION (43_flash_operations.md, the meaning of X!, sections 1 and 5; decision D10 for a step that fails): run
as CMDLATCH 0x90, ADDRLATCH [0x00], LATCHOUT 5, it ends with the first status that is not OK, the state as that step left it, and
else with the compare of what LATCHOUT answered. -/
def Obligations.IdentifyIsItsExpansion : Prop :=
  ∀ s : State, s.seq = .idle →
    ∃ s1, exec (.cmdlatch 0x90) s = .next s1 ∧
      (s1.resp.status ≠ .ok → exec .identify s = .next s1) ∧
      (s1.resp.status = .ok →
        ∃ s2, exec (.addrlatch [0x00]) s1 = .next s2 ∧
          (s2.resp.status ≠ .ok → ∃ t, exec .identify s = .next t ∧ SameButResponses s2 t ∧ t.resp = s2.resp) ∧
          (s2.resp.status = .ok →
            ∃ s3 t, exec (.latchout 5) s2 = .next s3 ∧ exec .identify s = .next t ∧ SameButResponses s3 t ∧
              t.env.responses = s.env.responses ++ [t.resp] ∧
              t.resp = if s3.resp.status = .ok then ⟨idStatus Config.standard s3.resp.data, s3.resp.data⟩ else s3.resp))

/-- PAGEREAD (43_flash_operations.md section 2; decision D24): with a first busy-poll read that is ready, the end state of its five
steps and the 2112 bytes; and with n reads that are not ready before it, the same after n + 1 steps from the issue of the
descriptor, one read each (log entry 3). -/
def Obligations.PagereadCompletes : Prop :=
  ∀ (p : Word) (s : State), s.seq = .idle → s.fault = none → signal Config.standard s.ctlShadow .nce = false →
    signal Config.standard s.ctlShadow .nre = true →
    (s.env.link.grants (pagereadCalls Config.standard 1) = true →
      (s.ctlAhead 1).map (ready Config.standard) = [true] →
      exec (.pageread p) s = .next ((pagereadEnd Config.standard p 1 s).respond ⟨.ok, s.dioAhead 2112⟩)) ∧
    ∀ (n : Nat) (rest : List Descriptor), s.env.resetIn = [] → s.env.program = encode (.pageread p) :: rest →
      s.env.link.grants (pagereadCalls Config.standard (n + 1)) = true →
      (s.ctlAhead (n + 1)).map (ready Config.standard) = List.replicate n false ++ [true] →
      Sys2Proof.core.run (n + 1) s =
        .next ((pagereadEnd Config.standard p (n + 1) { s with env := { s.env with program := rest } }).respond
          ⟨.ok, s.dioAhead 2112⟩)

/-- DUMP with a device that is ready at the first read of every page (43_flash_operations.md section 2): 262144 page reads from
index 0 on, every byte they read handed to the host in order, and the same as data: 553648128 bytes. -/
def Obligations.DumpCompletes : Prop :=
  ∀ s : State, s.seq = .idle → s.fault = none → signal Config.standard s.ctlShadow .nce = false →
    signal Config.standard s.ctlShadow .nre = true →
    s.env.link.grants (262144 * pagereadCalls Config.standard 1) = true →
    (s.ctlAhead 262144).map (ready Config.standard) = List.replicate 262144 true →
    exec .dump s = .next ((dumpEnd Config.standard 0 262144 s).respond ⟨.ok, s.dioAhead 553648128⟩) ∧
    (dumpEnd Config.standard 0 262144 s).env.stream = s.env.stream ++ s.dioAhead 553648128

/-- The DUMP stream (43_flash_operations.md R216), whatever the device and however often it was busy: whenever an operation DUMP
answers OK the host's output stream has grown by its data, 262144 records of 2112 bytes, and if the bytes of the i-th page read
(the i-th run of 2112 bytes the device answers) are all i mod 256, record i is 2112 bytes of i mod 256. -/
def Obligations.DumpStream : Prop :=
  ∀ (n : Nat) (s t : State) (rest : List Descriptor), s.seq = .idle → s.fault = none → s.env.resetIn = [] →
    s.env.program = encode .dump :: rest → Sys2Proof.core.run n s = .next t → t.env.program = rest → t.seq = .idle →
    t.env.responses = s.env.responses ++ [t.resp] → t.resp.status = .ok →
    t.env.stream = s.env.stream ++ t.resp.data ∧
    t.resp.data = s.dioAhead (262144 * 2112) ∧ t.resp.data.length = 262144 * 2112 ∧
    ∀ i < 262144, (∀ j < 2112, (s.dioAhead (262144 * 2112))[i * 2112 + j]? = some (BitVec.ofNat 8 i)) →
      (t.resp.data.drop (i * 2112)).take 2112 = List.replicate 2112 (BitVec.ofNat 8 i)

/-- DUMP HANDS EACH PAGE TO THE HOST AS IT COMPLETES (43_flash_operations.md, the rules of DUMP and of its corner cases;
20_memory.md section 1). A step, a reset too, only adds to the host's output stream. A DUMP whose first i pages were ready at once
and whose busy-poll of page i reads unready has handed over the i records and answered nothing, and a reset then leaves the host
its records. However a DUMP ends, its data is what it handed over: whole records, in order, an error's too. -/
def Obligations.DumpDeliversEachPage : Prop :=
  (∀ s t : State, step s = .next t → ∃ bytes, t.env.stream = s.env.stream ++ bytes) ∧
  (∀ (i : Nat) (s : State), i < 262144 → s.seq = .idle → s.fault = none →
    signal Config.standard s.ctlShadow .nce = false → signal Config.standard s.ctlShadow .nre = true →
    s.env.link.grants (i * pagereadCalls Config.standard 1 + 28) = true →
    (s.ctlAhead (i + 1)).map (ready Config.standard) = List.replicate i true ++ [false] →
    ∃ t, exec .dump s = .next t ∧ (∃ k loc, t.seq = .run .dump k loc) ∧ t.env.responses = s.env.responses ∧
      t.env.stream = s.env.stream ++ s.dioAhead (i * 2112) ∧
      ∀ rest, s.env.resetIn = some 0 :: rest →
        ∃ u, step t = .next u ∧ u.seq = .idle ∧ u.env.responses = s.env.responses ∧
          u.env.stream = s.env.stream ++ s.dioAhead (i * 2112)) ∧
  ∀ (n : Nat) (s t : State) (rest : List Descriptor), s.seq = .idle → s.env.resetIn = [] →
    s.env.program = encode .dump :: rest → Sys2Proof.core.run n s = .next t → t.env.program = rest → t.seq = .idle →
    t.env.responses = s.env.responses ++ [t.resp] →
    t.env.stream = s.env.stream ++ t.resp.data ∧ ∃ i ≤ 262144, t.resp.data = s.dioAhead (i * 2112)

/-- ERASE (43_flash_operations.md section 3): from Idle with no fault, nCE=0, nRE=1 and its calls accepted, with a first busy-poll
read that is ready: the end state of its steps, nWP low in shadow and latch at the end in both outcomes, and the decode of bit 0 of
the status byte alone; and with n reads that are not ready before it, the same after n + 1 steps from the issue of the descriptor,
one read each (log entry 3). -/
def Obligations.EraseCompletes : Prop :=
  ∀ (b : Word) (s : State), s.seq = .idle → s.fault = none → signal Config.standard s.ctlShadow .nce = false →
    signal Config.standard s.ctlShadow .nre = true →
    (s.env.link.grants (eraseCalls 1) = true → (s.ctlAhead 1).map (ready Config.standard) = [true] →
      ∃ v : Byte, s.dioAhead 1 = [v] ∧
        exec (.erase b) s =
          .next ((eraseEnd Config.standard b 1 s).respond ⟨if v.getLsbD 0 then .eraseFail else .ok, [v]⟩)) ∧
    (∀ (n : Nat) (rest : List Descriptor), s.env.resetIn = [] → s.env.program = encode (.erase b) :: rest →
      s.env.link.grants (eraseCalls (n + 1)) = true →
      (s.ctlAhead (n + 1)).map (ready Config.standard) = List.replicate n false ++ [true] →
      ∃ v : Byte, s.dioAhead 1 = [v] ∧
        Sys2Proof.core.run (n + 1) s =
          .next ((eraseEnd Config.standard b (n + 1) { s with env := { s.env with program := rest } }).respond
            ⟨if v.getLsbD 0 then .eraseFail else .ok, [v]⟩)) ∧
    ∀ reads, signal Config.standard (eraseEnd Config.standard b reads s).ctlShadow .nwp = false ∧
      (eraseEnd Config.standard b reads s).ctlLatch = some (eraseEnd Config.standard b reads s).ctlShadow

/-- An ERASE whose first CMDLATCH fails its precondition ends with nWP raised and left high (43_flash_operations.md, corner cases of
ERASE; 70_reset_and_hazards.md on write protection left released; decision D10). -/
def Obligations.EraseRefusedLeavesNwpHigh : Prop :=
  ∀ (b : Word) (s : State), s.seq = .idle → s.fault = none →
    (signal Config.standard s.ctlShadow .nce = true ∨ signal Config.standard s.ctlShadow .nre = false) →
    s.env.link.grants 1 = true →
    exec (.erase b) s = .next ((drivePinEnd Config.standard .nwp true s).respond ⟨.precondition, []⟩)

/-- PROGRAM (43_flash_operations.md R224, 60_exceptions.md R252): op 0x55, format Z; always NOT_IMPLEMENTED, only `resp` written,
whatever the fault and the control signals. -/
def Obligations.ProgramAnswers : Prop :=
  decode Config.standard (0x55#8 ++ 0#56) = .ok .program ∧
    ∀ s : State, s.seq = .idle → exec .program s = .next (s.respond ⟨.notImplemented, []⟩)

/-! ### Every operation -/

/-- FRAME: when a step that begins or continues an operation gives a next state, every component outside the list `mayWrite` names
for it is unchanged, and so are the host's program and the reset input (10_state.md sections 2 to 4; the "Writes" and "Does not
write" lines of 40 to 43). NBPE has no memory (20_memory.md). -/
def Obligations.FrameOfComponents : Prop :=
  ∀ (i : Instr) (s t : State), StepOf i s t →
    (∀ comp, comp ∉ mayWrite i → unchanged s t comp) ∧ t.env.program = s.env.program ∧
      t.env.resetIn = s.env.resetIn

/-- FRAME of the control register, for a step that begins or continues an operation: a bit of the control shadow outside the
signals `mayChange` names for the operation is unchanged; so only SETPIN moves nCE, LED and the shadow RDY bit, and only SETPIN and
ERASE move nWP (10_state.md section 3). -/
def Obligations.FrameOfControlBits : Prop :=
  ∀ (i : Instr) (s t : State), StepOf i s t →
    ∀ S, S ∉ mayChange Config.standard i →
      signal Config.standard t.ctlShadow S = signal Config.standard s.ctlShadow S

/-- The statuses each operation can end with, at once or after a busy wait, under every configuration with distinct pins
(60_exceptions.md section 1). -/
def Obligations.StatusesPossible : Prop :=
  ∀ (c : Config) (i : Instr) (s : State), c.wellFormed = true →
    ((perform c i s).seq = .idle → (perform c i s).resp.status ∈ possibleStatuses c i) ∧
    ∀ k loc t, resume c i k loc s = .next t → t.seq = .idle → t.resp.status ∈ possibleStatuses c i

/-- The history only grows and the fault stays, as long as the reset input is not applied (10_state.md section 4, 20_memory.md
section 7); an operation issued with the fault set adds no event. -/
def Obligations.HistoryGrowsAndFaultStays : Prop :=
  (∀ s t : State, resetDue s = none → step s = .next t →
    (∃ es, t.hist = s.hist ++ es) ∧ (s.fault = some .transport → t.fault = some .transport)) ∧
  ∀ (i : Instr) (s t : State), exec i s = .next t → s.fault = some .transport → t.hist = s.hist

/-- EXACTLY ONE RESPONSE PER OPERATION (10_state.md section 5): a step without reset turns an outstanding operation into a response
or leaves both counts, and so do the micro-steps before a reset; the reset itself makes no response, so that the operation in
progress when it comes is the one that gets none. -/
def Obligations.OneResponsePerOperation : Prop :=
  ∀ s t : State, step s = .next t →
    match resetDue s with
    | none => t.env.responses.length + outstanding t = s.env.responses.length + outstanding s
    | some n =>
      ∃ u, u = advances Config.standard n s.afterSampling ∧
        u.env.responses.length + outstanding u = s.env.responses.length + outstanding s ∧
        t.env.responses = u.env.responses ∧ t.env.program = u.env.program

/-- The shadow RDY bit is invisible (70_reset_and_hazards.md R293): two states alike but for the RDY bit of what was or will be
written to the control bus stay so under every step, with the same reads and responses, whether it begins an operation, continues
one after a busy wait, or resets; so under every operation; and no state drives the RDY pin. -/
def Obligations.RdyShadowInvisible : Prop :=
  (∀ s1 s2 t1 : State, AlikeButRdy Config.standard s1 s2 → step s1 = .next t1 →
    ∃ t2, step s2 = .next t2 ∧ AlikeButRdy Config.standard t1 t2) ∧
  (∀ (i : Instr) (s1 s2 t1 : State), AlikeButRdy Config.standard s1 s2 → exec i s1 = .next t1 →
    ∃ t2, exec i s2 = .next t2 ∧ AlikeButRdy Config.standard t1 t2) ∧
  ∀ s : State, pinLevel Config.standard s .rdy = none

/-! ### Invariants -/

/-- The latches, the direction and the fault stay what the event history says they are: every step keeps it (10_state.md sections 2
and 4, 00_scope.md section 6). -/
def Obligations.HistoryInvariantKept : Prop :=
  ∀ s t : State, HistOk Config.standard s → step s = .next t → HistOk Config.standard t

/-- The sequencer rests only in Idle or at a busy-poll read: every step keeps it, and from such a state the step never faults and
never refuses (10_state.md section 5; the granularity of the step is the model's choice, log entry 3). -/
def Obligations.SequencerInvariantKept : Prop :=
  ∀ s : State, SeqOk Config.standard s → ∃ t, step s = .next t ∧ SeqOk Config.standard t

/-- The reset state, with whatever other agents, meets both invariants (log entry 3 for the second). -/
def Obligations.ResetMeetsInvariants : Prop :=
  ∀ s : State, HistOk Config.standard s.sessionStart ∧ SeqOk Config.standard s.sessionStart

/-! ### Micro-steps -/

/-- REFINEMENT: what the machine does from a Run position in one step is what some number of single micro-steps do, and a whole
step without reset is some number of advances, each the acceptance of a descriptor, one micro-step or a wait (10_state.md section
5; the step's granularity is the model's choice, log entry 3), under every configuration; the machine's step is the standard one. -/
def Obligations.MicroStepsRefineStep : Prop :=
  (∀ (c : Config) (op : Instr) (k : Nat) (loc : Locals) (s t : State), s.seq = .run op k loc →
    resume c op k loc s = .next t → ∃ n, 0 < n ∧ advances c n s = t) ∧
  (∀ (c : Config) (s t : State), resetDue s = none → stepWith c s = .next t →
    ∃ n, 0 < n ∧ advances c n s.afterSampling = t) ∧
  ∀ s : State, step s = stepWith Config.standard s

/-- A micro-step appends at most one event and moves the sequencer to the next index, to Idle, or leaves it at a busy-poll read:
never backwards, never skipping (10_state.md section 5). -/
def Obligations.MicroStepAdvancesByOne : Prop :=
  ∀ (c : Config) (s : State),
    ((microStep c s).hist = s.hist ∨ ∃ e, (microStep c s).hist = s.hist ++ [e]) ∧
    ∀ op k loc, s.seq = .run op k loc → k < (microProgram c op).length →
      (microStep c s).seq = .idle ∨ (∃ loc', (microStep c s).seq = .run op (k + 1) loc') ∨
        ((microProgram c op)[k]? = some .poll ∧ ∃ loc', (microStep c s).seq = .run op k loc')

/-! ### Pseudo-operations -/

/-- RAISE, LOWER and DRIVE leave the state, H included, that the helper procedures raise_pin, lower_pin and drive_io leave, whether
or not the write is accepted (30_encoding.md section 7; decision D2), but for what the host was answered. -/
def Obligations.PseudoOperationsAreHelpers : Prop :=
  ∀ s : State, s.seq = .idle → s.fault = none →
    (∀ S, ∃ t, execAll (expand Config.standard (.raise S)) s = .next t ∧
      ∃ u, (drivePin Config.standard S true s = .done () u ∨ drivePin Config.standard S true s = .failed u) ∧
        SameButResponses u t) ∧
    (∀ S, ∃ t, execAll (expand Config.standard (.lower S)) s = .next t ∧
      ∃ u, (drivePin Config.standard S false s = .done () u ∨ drivePin Config.standard S false s = .failed u) ∧
        SameButResponses u t) ∧
    ∀ b, ∃ t, execAll (expand Config.standard (.drive b)) s = .next t ∧
      ∃ u, (driveIo b s = .done () u ∨ driveIo b s = .failed u) ∧ SameButResponses u t

/-- A COMMAND LATCH MADE OF BUS PRIMITIVES (40_bus_primitive.md on reproducing family PE; 95_test_vectors.md P8): RAISE CLE, LOWER
nWE, DRIVE cmd, RAISE nWE, LOWER CLE leave the state, H included, that CMDLATCH leaves, but for what the host was answered. -/
def Obligations.CmdlatchFromPrimitives : Prop :=
  ∀ (cmd : Byte) (s : State), s.seq = .idle → s.fault = none → signal Config.standard s.ctlShadow .nce = false →
    signal Config.standard s.ctlShadow .nre = true → s.env.link.grants 5 = true →
    ∃ t u, exec (.cmdlatch cmd) s = .next u ∧
      execAll ([Pseudo.raise .cle, .lower .nwe, .drive cmd, .raise .nwe, .lower .cle].flatMap (expand Config.standard)) s =
        .next t ∧ SameButResponses u t

/-! ### What the chip sees

Each statement speaks of the chip's view under every assumption d on how the I/O bus was turned when the session began that the
state agrees with. Where a byte must reach the chip, the I/O bus is turned out on the transport's side too, which a reset inside a
LATCHOUT can leave otherwise (70_reset_and_hazards.md section 1). -/

/-- CMDLATCH from the launch premise makes the chip latch exactly the command byte, between nWE's falling and rising edge, and
nothing else (60_exceptions.md section 7, 20_memory.md section 4, 95_test_vectors.md T4). -/
def Obligations.CmdlatchLatchesCommand : Prop :=
  ∀ (cmd : Byte) (d : Option Dir) (s : State), LaunchReady Config.standard s → Tracks Config.standard d s →
    s.env.lineDir = some .output → s.env.link.grants 5 = true →
    ∃ t, exec (.cmdlatch cmd) s = .next t ∧
      (chipView Config.standard d t.hist).latched =
        (chipView Config.standard d s.hist).latched ++ [.command (some cmd)] ∧
      (chipView Config.standard d t.hist).strobes = (chipView Config.standard d s.hist).strobes

/-- ADDRLATCH from the launch premise makes the chip latch exactly its bytes as address bytes, in order (same sections). -/
def Obligations.AddrlatchLatchesBytes : Prop :=
  ∀ (bytes : List Byte) (d : Option Dir) (s : State), LaunchReady Config.standard s → Tracks Config.standard d s →
    s.env.lineDir = some .output → s.env.link.grants (2 + 3 * bytes.length) = true →
    ∃ t, exec (.addrlatch bytes) s = .next t ∧
      (chipView Config.standard d t.hist).latched =
        (chipView Config.standard d s.hist).latched ++ bytes.map (fun b => .address (some b)) ∧
      (chipView Config.standard d t.hist).strobes = (chipView Config.standard d s.hist).strobes

/-- LATCHOUT n from the launch premise advances the chip's column counter by exactly n and latches nothing (10_state.md section 8,
95_test_vectors.md T6). -/
def Obligations.LatchoutStrobesExactly : Prop :=
  ∀ (n : Word) (d : Option Dir) (s : State), LaunchReady Config.standard s → Tracks Config.standard d s →
    s.env.link.grants (2 + 3 * n.toNat) = true →
    ∃ t, exec (.latchout n) s = .next t ∧
      (chipView Config.standard d t.hist).strobes = (chipView Config.standard d s.hist).strobes + n.toNat ∧
      (chipView Config.standard d t.hist).latched = (chipView Config.standard d s.hist).latched

/-- What the chip takes in of a page read: command 0x00, the five address cycles, command 0x30, then 2112 read strobes
(60_exceptions.md section 7 on the command sequences, 43_flash_operations.md section 2), ready at the first poll or after n reads
that are not (n + 1 steps from the issue, log entry 3). -/
def Obligations.PagereadSeenByChip : Prop :=
  ∀ (p : Word) (d : Option Dir) (s : State), LaunchReady Config.standard s → Tracks Config.standard d s →
    s.env.lineDir = some .output →
    (s.env.link.grants (pagereadCalls Config.standard 1) = true →
      (s.ctlAhead 1).map (ready Config.standard) = [true] →
      ∃ t, exec (.pageread p) s = .next t ∧ PagereadSeen Config.standard d p s t) ∧
    ∀ (n : Nat) (rest : List Descriptor), s.env.resetIn = [] → s.env.program = encode (.pageread p) :: rest →
      s.env.link.grants (pagereadCalls Config.standard (n + 1)) = true →
      (s.ctlAhead (n + 1)).map (ready Config.standard) = List.replicate n false ++ [true] →
      ∃ t, Sys2Proof.core.run (n + 1) s = .next t ∧ PagereadSeen Config.standard d p s t

/-- What the chip takes in of a block erase: nWP high, command 0x60, the three row cycles, commands 0xD0 and 0x70, one read strobe,
and nWP low again at the end (60_exceptions.md section 7, 43_flash_operations.md section 3), ready at the first poll or after n
reads that are not (n + 1 steps from the issue, log entry 3). -/
def Obligations.EraseSeenByChip : Prop :=
  ∀ (b : Word) (d : Option Dir) (s : State), LaunchReady Config.standard s → Tracks Config.standard d s →
    s.env.lineDir = some .output →
    (s.env.link.grants (eraseCalls 1) = true → (s.ctlAhead 1).map (ready Config.standard) = [true] →
      ∃ t, exec (.erase b) s = .next t ∧ EraseSeen Config.standard d b s t) ∧
    ∀ (n : Nat) (rest : List Descriptor), s.env.resetIn = [] → s.env.program = encode (.erase b) :: rest →
      s.env.link.grants (eraseCalls (n + 1)) = true →
      (s.ctlAhead (n + 1)).map (ready Config.standard) = List.replicate n false ++ [true] →
      ∃ t, Sys2Proof.core.run (n + 1) s = .next t ∧ EraseSeen Config.standard d b s t
end

