-- ==== Sys2Proof/Laws/Encoding.lean ====
section
/-! SUPPORT. The fields of a word put together with `++`, and the operand bits there and back: what the round trip between
decoder and encoder rests on. -/

namespace Sys2Proof

/-- A field that lies in the low part. -/
theorem extract_append_low {u v : Nat} (x : BitVec u) (y : BitVec v) {start len : Nat} (h : start + len ≤ v) :
    (x ++ y).extractLsb' start len = y.extractLsb' start len := by
  refine BitVec.eq_of_getLsbD_eq fun i hi => ?_
  rw [BitVec.getLsbD_extractLsb', BitVec.getLsbD_extractLsb', BitVec.getLsbD_append, if_pos (by omega)]

/-- A field that lies in the high part. -/
theorem extract_append_high {u v : Nat} (x : BitVec u) (y : BitVec v) {start len : Nat} (h : v ≤ start) :
    (x ++ y).extractLsb' start len = x.extractLsb' (start - v) len := by
  refine BitVec.eq_of_getLsbD_eq fun i hi => ?_
  rw [BitVec.getLsbD_extractLsb', BitVec.getLsbD_extractLsb', BitVec.getLsbD_append, if_neg (by omega),
    show start + i - v = start - v + i by omega]

@[simp] theorem extract_all {u : Nat} (x : BitVec u) : x.extractLsb' 0 u = x := by
  refine BitVec.eq_of_getLsbD_eq fun i hi => ?_
  simp [hi]

@[simp] theorem busOfBit_bitOfBus (b : Bus) : busOfBit (bitOfBus b) = b := by cases b <;> rfl

@[simp] theorem bitOfBus_busOfBit (b : Bool) : bitOfBus (busOfBit b) = b := by cases b <;> rfl

@[simp] theorem dirOfBit_bitOfDir (d : Dir) : dirOfBit (bitOfDir d) = d := by cases d <;> rfl

@[simp] theorem bitOfDir_dirOfBit (b : Bool) : bitOfDir (dirOfBit b) = b := by cases b <;> rfl

/-- The operation code of an encoded operation (R101, R110). -/
theorem opcode_encode (i : Instr) : (encode i).extractLsb' 56 8 = opcode i := by
  cases i <;> simp (disch := omega) only [encode, extract_append_high, Nat.reduceSub, extract_all] <;> rfl

/-! ### The fields of each format (R102 to R108) -/

theorem setpin_reserved (bus : Bus) (pin : PinPos) (on : Bool) :
    (encode (.setpin bus pin on)).extractLsb' 5 51 = 0#51 := by
  cases bus <;> cases on <;> revert pin <;> decide

theorem setpin_bus (bus : Bus) (pin : PinPos) (on : Bool) :
    busOfBit ((encode (.setpin bus pin on)).getLsbD 4) = bus := by
  cases bus <;> cases on <;> revert pin <;> decide

theorem setpin_pin (bus : Bus) (pin : PinPos) (on : Bool) :
    (encode (.setpin bus pin on)).extractLsb' 1 3 = pin := by
  cases bus <;> cases on <;> revert pin <;> decide

theorem setpin_on (bus : Bus) (pin : PinPos) (on : Bool) : (encode (.setpin bus pin on)).getLsbD 0 = on := by
  cases bus <;> cases on <;> revert pin <;> decide

/-- The 24 reserved bits of a format with a 32-bit operand (R108). -/
theorem word_reserved (op : Byte) (n : Word) : ((op ++ 0#24 ++ n : BitVec 64)).extractLsb' 32 24 = 0#24 :=
  (extract_append_high (op ++ 0#24) n (by omega)).trans
    ((extract_append_low op 0#24 (by omega)).trans (extract_all 0#24))

/-- The operand of a format with a 32-bit operand (R108). -/
theorem word_operand (op : Byte) (n : Word) : ((op ++ 0#24 ++ n : BitVec 64)).extractLsb' 0 32 = n :=
  (extract_append_low (op ++ 0#24) n (by omega)).trans (extract_all n)

/-- The 48 reserved bits of CMDLATCH (R106). -/
theorem byte_reserved (op b : Byte) : ((op ++ 0#48 ++ b : BitVec 64)).extractLsb' 8 48 = 0#48 :=
  (extract_append_high (op ++ 0#48) b (by omega)).trans
    ((extract_append_low op 0#48 (by omega)).trans (extract_all 0#48))

/-- The operand of CMDLATCH (R106). -/
theorem byte_operand (op b : Byte) : ((op ++ 0#48 ++ b : BitVec 64)).extractLsb' 0 8 = b :=
  (extract_append_low (op ++ 0#48) b (by omega)).trans (extract_all b)

/-- The 13 reserved bits of ADDRLATCH (R107). -/
theorem addrlatch_reserved (bytes : List Byte) : (encode (.addrlatch bytes)).extractLsb' 43 13 = 0#13 :=
  (extract_append_high _ (bytes.getD 0 0) (by omega)).trans
    ((extract_append_high _ (bytes.getD 1 0) (by omega)).trans
      ((extract_append_high _ (bytes.getD 2 0) (by omega)).trans
        ((extract_append_high _ (bytes.getD 3 0) (by omega)).trans
          ((extract_append_high _ (bytes.getD 4 0) (by omega)).trans
            ((extract_append_high (0x22#8 ++ 0#13) (BitVec.ofNat 3 bytes.length) (by omega)).trans
              ((extract_append_low 0x22#8 0#13 (by omega)).trans (extract_all 0#13)))))))

/-- The count of ADDRLATCH (R107). -/
theorem addrlatch_count (bytes : List Byte) :
    (encode (.addrlatch bytes)).extractLsb' 40 3 = BitVec.ofNat 3 bytes.length :=
  (extract_append_high _ (bytes.getD 0 0) (by omega)).trans
    ((extract_append_high _ (bytes.getD 1 0) (by omega)).trans
      ((extract_append_high _ (bytes.getD 2 0) (by omega)).trans
        ((extract_append_high _ (bytes.getD 3 0) (by omega)).trans
          ((extract_append_high _ (bytes.getD 4 0) (by omega)).trans
            ((extract_append_low (0x22#8 ++ 0#13) (BitVec.ofNat 3 bytes.length) (by omega)).trans
              (extract_all _))))))

/-- The five address bytes of ADDRLATCH (R107). -/
theorem addrlatch_bytes (bytes : List Byte) :
    addressBytes (encode (.addrlatch bytes)) =
      [bytes.getD 0 0, bytes.getD 1 0, bytes.getD 2 0, bytes.getD 3 0, bytes.getD 4 0] := by
  have b0 : (encode (.addrlatch bytes)).extractLsb' 0 8 = bytes.getD 0 0 :=
    (extract_append_low _ (bytes.getD 0 0) (by omega)).trans (extract_all _)
  have b1 : (encode (.addrlatch bytes)).extractLsb' 8 8 = bytes.getD 1 0 :=
    (extract_append_high _ (bytes.getD 0 0) (by omega)).trans
      ((extract_append_low _ (bytes.getD 1 0) (by omega)).trans (extract_all _))
  have b2 : (encode (.addrlatch bytes)).extractLsb' 16 8 = bytes.getD 2 0 :=
    (extract_append_high _ (bytes.getD 0 0) (by omega)).trans
      ((extract_append_high _ (bytes.getD 1 0) (by omega)).trans
        ((extract_append_low _ (bytes.getD 2 0) (by omega)).trans (extract_all _)))
  have b3 : (encode (.addrlatch bytes)).extractLsb' 24 8 = bytes.getD 3 0 :=
    (extract_append_high _ (bytes.getD 0 0) (by omega)).trans
      ((extract_append_high _ (bytes.getD 1 0) (by omega)).trans
        ((extract_append_high _ (bytes.getD 2 0) (by omega)).trans
          ((extract_append_low _ (bytes.getD 3 0) (by omega)).trans (extract_all _))))
  have b4 : (encode (.addrlatch bytes)).extractLsb' 32 8 = bytes.getD 4 0 :=
    (extract_append_high _ (bytes.getD 0 0) (by omega)).trans
      ((extract_append_high _ (bytes.getD 1 0) (by omega)).trans
        ((extract_append_high _ (bytes.getD 2 0) (by omega)).trans
          ((extract_append_high _ (bytes.getD 3 0) (by omega)).trans
            ((extract_append_low _ (bytes.getD 4 0) (by omega)).trans (extract_all _)))))
  simp only [addressBytes, b0, b1, b2, b3, b4]

/-- A list of at most five bytes is the first so many of its five slots, and the slots beyond are 0 (R107). -/
theorem addrlatch_slots {bytes : List Byte} (h : bytes.length ≤ 5) :
    let slots := [bytes.getD 0 0, bytes.getD 1 0, bytes.getD 2 0, bytes.getD 3 0, bytes.getD 4 0]
    slots.take bytes.length = bytes ∧ (slots.drop bytes.length).all (· == 0) = true :=
  match bytes, h with
  | [], _ => ⟨rfl, rfl⟩
  | [_], _ => ⟨rfl, rfl⟩
  | [_, _], _ => ⟨rfl, rfl⟩
  | [_, _, _], _ => ⟨rfl, rfl⟩
  | [_, _, _, _], _ => ⟨rfl, rfl⟩
  | [_, _, _, _, _], _ => ⟨rfl, rfl⟩
  | _ :: _ :: _ :: _ :: _ :: _ :: _, h => absurd h (by simp)

/-- What a decoder arm that accepts says (R120). -/
theorem reservedZero_ok {w : Nat} {op : Byte} {r : BitVec w} {i j : Instr} (h : reservedZero op r i = .ok j) :
    r = 0#w ∧ j = i := by
  unfold reservedZero at h
  split at h <;> simp_all

/-- What a decoder arm of family FO that accepts says (R121). -/
theorem macroOnly_ok {c : Config} {op : Byte} {r : Except DecodeError Instr} {j : Instr} (h : macroOnly c op r = .ok j) :
    c.hasFlashMacros = true ∧ r = .ok j := by
  unfold macroOnly at h
  split at h <;> simp_all

end Sys2Proof
end

