-- ==== Sys2Proof/Laws/State.lean ====
section
/-! SUPPORT. One lemma per field per named update of the state, so that no proof unfolds a record update. -/

namespace Sys2Proof.Machine

/-! ### `bus.shadow <- v` -/

@[simp] theorem State.setShadow_ioDir (s : State) (bus : Bus) (v : Byte) : (s.setShadow bus v).ioDir = s.ioDir := by
  cases bus <;> rfl

@[simp] theorem State.setShadow_ioLatch (s : State) (bus : Bus) (v : Byte) : (s.setShadow bus v).ioLatch = s.ioLatch := by
  cases bus <;> rfl

@[simp] theorem State.setShadow_ctlLatch (s : State) (bus : Bus) (v : Byte) : (s.setShadow bus v).ctlLatch = s.ctlLatch := by
  cases bus <;> rfl

@[simp] theorem State.setShadow_fault (s : State) (bus : Bus) (v : Byte) : (s.setShadow bus v).fault = s.fault := by
  cases bus <;> rfl

@[simp] theorem State.setShadow_seq (s : State) (bus : Bus) (v : Byte) : (s.setShadow bus v).seq = s.seq := by
  cases bus <;> rfl

@[simp] theorem State.setShadow_obuf (s : State) (bus : Bus) (v : Byte) : (s.setShadow bus v).obuf = s.obuf := by
  cases bus <;> rfl

@[simp] theorem State.setShadow_resp (s : State) (bus : Bus) (v : Byte) : (s.setShadow bus v).resp = s.resp := by
  cases bus <;> rfl

@[simp] theorem State.setShadow_hist (s : State) (bus : Bus) (v : Byte) : (s.setShadow bus v).hist = s.hist := by
  cases bus <;> rfl

@[simp] theorem State.setShadow_env (s : State) (bus : Bus) (v : Byte) : (s.setShadow bus v).env = s.env := by
  cases bus <;> rfl

@[simp] theorem State.setShadow_io_ioShadow (s : State) (v : Byte) : (s.setShadow .io v).ioShadow = v := rfl

@[simp] theorem State.setShadow_ctl_ioShadow (s : State) (v : Byte) : (s.setShadow .ctl v).ioShadow = s.ioShadow := rfl

@[simp] theorem State.setShadow_ctl_ctlShadow (s : State) (v : Byte) : (s.setShadow .ctl v).ctlShadow = v := rfl

@[simp] theorem State.setShadow_io_ctlShadow (s : State) (v : Byte) : (s.setShadow .io v).ctlShadow = s.ctlShadow := rfl

/-! ### `bus.latch <- v` -/

@[simp] theorem State.setLatch_ioShadow (s : State) (bus : Bus) (v : Option Byte) : (s.setLatch bus v).ioShadow = s.ioShadow := by
  cases bus <;> rfl

@[simp] theorem State.setLatch_ioDir (s : State) (bus : Bus) (v : Option Byte) : (s.setLatch bus v).ioDir = s.ioDir := by
  cases bus <;> rfl

@[simp] theorem State.setLatch_ctlShadow (s : State) (bus : Bus) (v : Option Byte) : (s.setLatch bus v).ctlShadow = s.ctlShadow := by
  cases bus <;> rfl

@[simp] theorem State.setLatch_fault (s : State) (bus : Bus) (v : Option Byte) : (s.setLatch bus v).fault = s.fault := by
  cases bus <;> rfl

@[simp] theorem State.setLatch_seq (s : State) (bus : Bus) (v : Option Byte) : (s.setLatch bus v).seq = s.seq := by
  cases bus <;> rfl

@[simp] theorem State.setLatch_obuf (s : State) (bus : Bus) (v : Option Byte) : (s.setLatch bus v).obuf = s.obuf := by
  cases bus <;> rfl

@[simp] theorem State.setLatch_resp (s : State) (bus : Bus) (v : Option Byte) : (s.setLatch bus v).resp = s.resp := by
  cases bus <;> rfl

@[simp] theorem State.setLatch_hist (s : State) (bus : Bus) (v : Option Byte) : (s.setLatch bus v).hist = s.hist := by
  cases bus <;> rfl

@[simp] theorem State.setLatch_env (s : State) (bus : Bus) (v : Option Byte) : (s.setLatch bus v).env = s.env := by
  cases bus <;> rfl

@[simp] theorem State.setLatch_io_ioLatch (s : State) (v : Option Byte) : (s.setLatch .io v).ioLatch = v := rfl

@[simp] theorem State.setLatch_ctl_ioLatch (s : State) (v : Option Byte) : (s.setLatch .ctl v).ioLatch = s.ioLatch := rfl

@[simp] theorem State.setLatch_ctl_ctlLatch (s : State) (v : Option Byte) : (s.setLatch .ctl v).ctlLatch = v := rfl

@[simp] theorem State.setLatch_io_ctlLatch (s : State) (v : Option Byte) : (s.setLatch .io v).ctlLatch = s.ctlLatch := rfl

/-! ### `IO.dir <- d` -/

@[simp] theorem State.setDir_ioShadow (s : State) (d : Dir) : (s.setDir d).ioShadow = s.ioShadow := rfl

@[simp] theorem State.setDir_ioDir (s : State) (d : Dir) : (s.setDir d).ioDir = d := rfl

@[simp] theorem State.setDir_ctlShadow (s : State) (d : Dir) : (s.setDir d).ctlShadow = s.ctlShadow := rfl

@[simp] theorem State.setDir_ioLatch (s : State) (d : Dir) : (s.setDir d).ioLatch = s.ioLatch := rfl

@[simp] theorem State.setDir_ctlLatch (s : State) (d : Dir) : (s.setDir d).ctlLatch = s.ctlLatch := rfl

@[simp] theorem State.setDir_fault (s : State) (d : Dir) : (s.setDir d).fault = s.fault := rfl

@[simp] theorem State.setDir_seq (s : State) (d : Dir) : (s.setDir d).seq = s.seq := rfl

@[simp] theorem State.setDir_obuf (s : State) (d : Dir) : (s.setDir d).obuf = s.obuf := rfl

@[simp] theorem State.setDir_resp (s : State) (d : Dir) : (s.setDir d).resp = s.resp := rfl

@[simp] theorem State.setDir_hist (s : State) (d : Dir) : (s.setDir d).hist = s.hist := rfl

@[simp] theorem State.setDir_env (s : State) (d : Dir) : (s.setDir d).env = s.env := rfl

/-! ### `obuf <- bytes` -/

@[simp] theorem State.setObuf_ioShadow (s : State) (bytes : List Byte) : (s.setObuf bytes).ioShadow = s.ioShadow := rfl

@[simp] theorem State.setObuf_ioDir (s : State) (bytes : List Byte) : (s.setObuf bytes).ioDir = s.ioDir := rfl

@[simp] theorem State.setObuf_ctlShadow (s : State) (bytes : List Byte) : (s.setObuf bytes).ctlShadow = s.ctlShadow := rfl

@[simp] theorem State.setObuf_ioLatch (s : State) (bytes : List Byte) : (s.setObuf bytes).ioLatch = s.ioLatch := rfl

@[simp] theorem State.setObuf_ctlLatch (s : State) (bytes : List Byte) : (s.setObuf bytes).ctlLatch = s.ctlLatch := rfl

@[simp] theorem State.setObuf_fault (s : State) (bytes : List Byte) : (s.setObuf bytes).fault = s.fault := rfl

@[simp] theorem State.setObuf_seq (s : State) (bytes : List Byte) : (s.setObuf bytes).seq = s.seq := rfl

@[simp] theorem State.setObuf_obuf (s : State) (bytes : List Byte) : (s.setObuf bytes).obuf = bytes := rfl

@[simp] theorem State.setObuf_resp (s : State) (bytes : List Byte) : (s.setObuf bytes).resp = s.resp := rfl

@[simp] theorem State.setObuf_hist (s : State) (bytes : List Byte) : (s.setObuf bytes).hist = s.hist := rfl

@[simp] theorem State.setObuf_env (s : State) (bytes : List Byte) : (s.setObuf bytes).env = s.env := rfl

/-! ### An event -/

@[simp] theorem State.log_ioShadow (s : State) (e : Event) : (s.log e).ioShadow = s.ioShadow := rfl

@[simp] theorem State.log_ioDir (s : State) (e : Event) : (s.log e).ioDir = s.ioDir := rfl

@[simp] theorem State.log_ctlShadow (s : State) (e : Event) : (s.log e).ctlShadow = s.ctlShadow := rfl

@[simp] theorem State.log_ioLatch (s : State) (e : Event) : (s.log e).ioLatch = s.ioLatch := rfl

@[simp] theorem State.log_ctlLatch (s : State) (e : Event) : (s.log e).ctlLatch = s.ctlLatch := rfl

@[simp] theorem State.log_fault (s : State) (e : Event) : (s.log e).fault = s.fault := rfl

@[simp] theorem State.log_seq (s : State) (e : Event) : (s.log e).seq = s.seq := rfl

@[simp] theorem State.log_obuf (s : State) (e : Event) : (s.log e).obuf = s.obuf := rfl

@[simp] theorem State.log_resp (s : State) (e : Event) : (s.log e).resp = s.resp := rfl

@[simp] theorem State.log_hist (s : State) (e : Event) : (s.log e).hist = s.hist ++ [e] := rfl

@[simp] theorem State.log_env (s : State) (e : Event) : (s.log e).env = s.env := rfl

/-! ### The sequencer at a Run position -/

@[simp] theorem State.park_ioShadow (s : State) (op : Instr) (k : Nat) (loc : Locals) : (s.park op k loc).ioShadow = s.ioShadow := rfl

@[simp] theorem State.park_ioDir (s : State) (op : Instr) (k : Nat) (loc : Locals) : (s.park op k loc).ioDir = s.ioDir := rfl

@[simp] theorem State.park_ctlShadow (s : State) (op : Instr) (k : Nat) (loc : Locals) : (s.park op k loc).ctlShadow = s.ctlShadow := rfl

@[simp] theorem State.park_ioLatch (s : State) (op : Instr) (k : Nat) (loc : Locals) : (s.park op k loc).ioLatch = s.ioLatch := rfl

@[simp] theorem State.park_ctlLatch (s : State) (op : Instr) (k : Nat) (loc : Locals) : (s.park op k loc).ctlLatch = s.ctlLatch := rfl

@[simp] theorem State.park_fault (s : State) (op : Instr) (k : Nat) (loc : Locals) : (s.park op k loc).fault = s.fault := rfl

@[simp] theorem State.park_seq (s : State) (op : Instr) (k : Nat) (loc : Locals) : (s.park op k loc).seq = .run op k loc := rfl

@[simp] theorem State.park_obuf (s : State) (op : Instr) (k : Nat) (loc : Locals) : (s.park op k loc).obuf = s.obuf := rfl

@[simp] theorem State.park_resp (s : State) (op : Instr) (k : Nat) (loc : Locals) : (s.park op k loc).resp = s.resp := rfl

@[simp] theorem State.park_hist (s : State) (op : Instr) (k : Nat) (loc : Locals) : (s.park op k loc).hist = s.hist := rfl

@[simp] theorem State.park_env (s : State) (op : Instr) (k : Nat) (loc : Locals) : (s.park op k loc).env = s.env := rfl

/-! ### The end of an operation -/

@[simp] theorem State.respond_ioShadow (s : State) (r : Response) : (s.respond r).ioShadow = s.ioShadow := rfl

@[simp] theorem State.respond_ioDir (s : State) (r : Response) : (s.respond r).ioDir = s.ioDir := rfl

@[simp] theorem State.respond_ctlShadow (s : State) (r : Response) : (s.respond r).ctlShadow = s.ctlShadow := rfl

@[simp] theorem State.respond_ioLatch (s : State) (r : Response) : (s.respond r).ioLatch = s.ioLatch := rfl

@[simp] theorem State.respond_ctlLatch (s : State) (r : Response) : (s.respond r).ctlLatch = s.ctlLatch := rfl

@[simp] theorem State.respond_fault (s : State) (r : Response) : (s.respond r).fault = s.fault := rfl

@[simp] theorem State.respond_seq (s : State) (r : Response) : (s.respond r).seq = .idle := rfl

@[simp] theorem State.respond_obuf (s : State) (r : Response) : (s.respond r).obuf = s.obuf := rfl

@[simp] theorem State.respond_resp (s : State) (r : Response) : (s.respond r).resp = r := rfl

@[simp] theorem State.respond_hist (s : State) (r : Response) : (s.respond r).hist = s.hist := rfl

@[simp] theorem State.respond_env (s : State) (r : Response) : (s.respond r).env = { s.env with responses := s.env.responses ++ [r] } := rfl

/-! ### A failed transport call -/

@[simp] theorem State.failCall_ioShadow (s : State) (call : TransportCall) : (s.failCall call).ioShadow = s.ioShadow := rfl

@[simp] theorem State.failCall_ioDir (s : State) (call : TransportCall) : (s.failCall call).ioDir = s.ioDir := rfl

@[simp] theorem State.failCall_ctlShadow (s : State) (call : TransportCall) : (s.failCall call).ctlShadow = s.ctlShadow := rfl

@[simp] theorem State.failCall_ioLatch (s : State) (call : TransportCall) : (s.failCall call).ioLatch = s.ioLatch := rfl

@[simp] theorem State.failCall_ctlLatch (s : State) (call : TransportCall) : (s.failCall call).ctlLatch = s.ctlLatch := rfl

@[simp] theorem State.failCall_fault (s : State) (call : TransportCall) : (s.failCall call).fault = some .transport := rfl

@[simp] theorem State.failCall_seq (s : State) (call : TransportCall) : (s.failCall call).seq = s.seq := rfl

@[simp] theorem State.failCall_obuf (s : State) (call : TransportCall) : (s.failCall call).obuf = s.obuf := rfl

@[simp] theorem State.failCall_resp (s : State) (call : TransportCall) : (s.failCall call).resp = s.resp := rfl

@[simp] theorem State.failCall_hist (s : State) (call : TransportCall) : (s.failCall call).hist = s.hist ++ [.tfail call] := rfl

@[simp] theorem State.failCall_env (s : State) (call : TransportCall) : (s.failCall call).env = s.env := rfl

/-! ### The transport after a call -/

@[simp] theorem State.setLink_ioShadow (s : State) (l : Link) : (s.setLink l).ioShadow = s.ioShadow := rfl

@[simp] theorem State.setLink_ioDir (s : State) (l : Link) : (s.setLink l).ioDir = s.ioDir := rfl

@[simp] theorem State.setLink_ctlShadow (s : State) (l : Link) : (s.setLink l).ctlShadow = s.ctlShadow := rfl

@[simp] theorem State.setLink_ioLatch (s : State) (l : Link) : (s.setLink l).ioLatch = s.ioLatch := rfl

@[simp] theorem State.setLink_ctlLatch (s : State) (l : Link) : (s.setLink l).ctlLatch = s.ctlLatch := rfl

@[simp] theorem State.setLink_fault (s : State) (l : Link) : (s.setLink l).fault = s.fault := rfl

@[simp] theorem State.setLink_seq (s : State) (l : Link) : (s.setLink l).seq = s.seq := rfl

@[simp] theorem State.setLink_obuf (s : State) (l : Link) : (s.setLink l).obuf = s.obuf := rfl

@[simp] theorem State.setLink_resp (s : State) (l : Link) : (s.setLink l).resp = s.resp := rfl

@[simp] theorem State.setLink_hist (s : State) (l : Link) : (s.setLink l).hist = s.hist := rfl

@[simp] theorem State.setLink_env (s : State) (l : Link) : (s.setLink l).env = { s.env with link := l } := rfl

/-! ### The direction on the transport's side -/

@[simp] theorem State.setLines_ioShadow (s : State) (d : Option Dir) : (s.setLines d).ioShadow = s.ioShadow := rfl

@[simp] theorem State.setLines_ioDir (s : State) (d : Option Dir) : (s.setLines d).ioDir = s.ioDir := rfl

@[simp] theorem State.setLines_ctlShadow (s : State) (d : Option Dir) : (s.setLines d).ctlShadow = s.ctlShadow := rfl

@[simp] theorem State.setLines_ioLatch (s : State) (d : Option Dir) : (s.setLines d).ioLatch = s.ioLatch := rfl

@[simp] theorem State.setLines_ctlLatch (s : State) (d : Option Dir) : (s.setLines d).ctlLatch = s.ctlLatch := rfl

@[simp] theorem State.setLines_fault (s : State) (d : Option Dir) : (s.setLines d).fault = s.fault := rfl

@[simp] theorem State.setLines_seq (s : State) (d : Option Dir) : (s.setLines d).seq = s.seq := rfl

@[simp] theorem State.setLines_obuf (s : State) (d : Option Dir) : (s.setLines d).obuf = s.obuf := rfl

@[simp] theorem State.setLines_resp (s : State) (d : Option Dir) : (s.setLines d).resp = s.resp := rfl

@[simp] theorem State.setLines_hist (s : State) (d : Option Dir) : (s.setLines d).hist = s.hist := rfl

@[simp] theorem State.setLines_env (s : State) (d : Option Dir) : (s.setLines d).env = { s.env with lineDir := d } := rfl

/-! ### A page handed to the host -/

@[simp] theorem State.deliver_ioShadow (s : State) : (s.deliver).ioShadow = s.ioShadow := rfl

@[simp] theorem State.deliver_ioDir (s : State) : (s.deliver).ioDir = s.ioDir := rfl

@[simp] theorem State.deliver_ctlShadow (s : State) : (s.deliver).ctlShadow = s.ctlShadow := rfl

@[simp] theorem State.deliver_ioLatch (s : State) : (s.deliver).ioLatch = s.ioLatch := rfl

@[simp] theorem State.deliver_ctlLatch (s : State) : (s.deliver).ctlLatch = s.ctlLatch := rfl

@[simp] theorem State.deliver_fault (s : State) : (s.deliver).fault = s.fault := rfl

@[simp] theorem State.deliver_seq (s : State) : (s.deliver).seq = s.seq := rfl

@[simp] theorem State.deliver_obuf (s : State) : (s.deliver).obuf = s.obuf := rfl

@[simp] theorem State.deliver_resp (s : State) : (s.deliver).resp = s.resp := rfl

@[simp] theorem State.deliver_hist (s : State) : (s.deliver).hist = s.hist := rfl

@[simp] theorem State.deliver_env (s : State) : (s.deliver).env = { s.env with stream := s.env.stream ++ s.obuf } := rfl

/-! ### The reset input sampled -/

@[simp] theorem State.afterSampling_ioShadow (s : State) : (s.afterSampling).ioShadow = s.ioShadow := rfl

@[simp] theorem State.afterSampling_ioDir (s : State) : (s.afterSampling).ioDir = s.ioDir := rfl

@[simp] theorem State.afterSampling_ctlShadow (s : State) : (s.afterSampling).ctlShadow = s.ctlShadow := rfl

@[simp] theorem State.afterSampling_ioLatch (s : State) : (s.afterSampling).ioLatch = s.ioLatch := rfl

@[simp] theorem State.afterSampling_ctlLatch (s : State) : (s.afterSampling).ctlLatch = s.ctlLatch := rfl

@[simp] theorem State.afterSampling_fault (s : State) : (s.afterSampling).fault = s.fault := rfl

@[simp] theorem State.afterSampling_seq (s : State) : (s.afterSampling).seq = s.seq := rfl

@[simp] theorem State.afterSampling_obuf (s : State) : (s.afterSampling).obuf = s.obuf := rfl

@[simp] theorem State.afterSampling_resp (s : State) : (s.afterSampling).resp = s.resp := rfl

@[simp] theorem State.afterSampling_hist (s : State) : (s.afterSampling).hist = s.hist := rfl

@[simp] theorem State.afterSampling_env (s : State) : (s.afterSampling).env = { s.env with resetIn := s.env.resetIn.tail } := rfl

/-! ### Reset -/

@[simp] theorem State.sessionStart_ioShadow (s : State) : s.sessionStart.ioShadow = State.reset.ioShadow := rfl

@[simp] theorem State.sessionStart_ioDir (s : State) : s.sessionStart.ioDir = State.reset.ioDir := rfl

@[simp] theorem State.sessionStart_ctlShadow (s : State) : s.sessionStart.ctlShadow = State.reset.ctlShadow := rfl

@[simp] theorem State.sessionStart_ioLatch (s : State) : s.sessionStart.ioLatch = State.reset.ioLatch := rfl

@[simp] theorem State.sessionStart_ctlLatch (s : State) : s.sessionStart.ctlLatch = State.reset.ctlLatch := rfl

@[simp] theorem State.sessionStart_fault (s : State) : s.sessionStart.fault = State.reset.fault := rfl

@[simp] theorem State.sessionStart_seq (s : State) : s.sessionStart.seq = State.reset.seq := rfl

@[simp] theorem State.sessionStart_obuf (s : State) : s.sessionStart.obuf = State.reset.obuf := rfl

@[simp] theorem State.sessionStart_resp (s : State) : s.sessionStart.resp = State.reset.resp := rfl

@[simp] theorem State.sessionStart_hist (s : State) : s.sessionStart.hist = State.reset.hist := rfl

@[simp] theorem State.sessionStart_env (s : State) : s.sessionStart.env = s.env := rfl

/-! ### The device after a read -/

@[simp] theorem State.setChannel_ioShadow (s : State) (bus : Bus) (ch : Channel) : (s.setChannel bus ch).ioShadow = s.ioShadow := by
  cases bus <;> rfl

@[simp] theorem State.setChannel_ioDir (s : State) (bus : Bus) (ch : Channel) : (s.setChannel bus ch).ioDir = s.ioDir := by
  cases bus <;> rfl

@[simp] theorem State.setChannel_ctlShadow (s : State) (bus : Bus) (ch : Channel) : (s.setChannel bus ch).ctlShadow = s.ctlShadow := by
  cases bus <;> rfl

@[simp] theorem State.setChannel_ioLatch (s : State) (bus : Bus) (ch : Channel) : (s.setChannel bus ch).ioLatch = s.ioLatch := by
  cases bus <;> rfl

@[simp] theorem State.setChannel_ctlLatch (s : State) (bus : Bus) (ch : Channel) : (s.setChannel bus ch).ctlLatch = s.ctlLatch := by
  cases bus <;> rfl

@[simp] theorem State.setChannel_fault (s : State) (bus : Bus) (ch : Channel) : (s.setChannel bus ch).fault = s.fault := by
  cases bus <;> rfl

@[simp] theorem State.setChannel_seq (s : State) (bus : Bus) (ch : Channel) : (s.setChannel bus ch).seq = s.seq := by
  cases bus <;> rfl

@[simp] theorem State.setChannel_obuf (s : State) (bus : Bus) (ch : Channel) : (s.setChannel bus ch).obuf = s.obuf := by
  cases bus <;> rfl

@[simp] theorem State.setChannel_resp (s : State) (bus : Bus) (ch : Channel) : (s.setChannel bus ch).resp = s.resp := by
  cases bus <;> rfl

@[simp] theorem State.setChannel_hist (s : State) (bus : Bus) (ch : Channel) : (s.setChannel bus ch).hist = s.hist := by
  cases bus <;> rfl

@[simp] theorem State.setChannel_env_link (s : State) (bus : Bus) (ch : Channel) :
    (s.setChannel bus ch).env.link = s.env.link := by
  cases bus <;> rfl

@[simp] theorem State.setChannel_env_lineDir (s : State) (bus : Bus) (ch : Channel) :
    (s.setChannel bus ch).env.lineDir = s.env.lineDir := by
  cases bus <;> rfl

@[simp] theorem State.setChannel_env_resetIn (s : State) (bus : Bus) (ch : Channel) :
    (s.setChannel bus ch).env.resetIn = s.env.resetIn := by
  cases bus <;> rfl

@[simp] theorem State.setChannel_env_program (s : State) (bus : Bus) (ch : Channel) :
    (s.setChannel bus ch).env.program = s.env.program := by
  cases bus <;> rfl

@[simp] theorem State.setChannel_env_responses (s : State) (bus : Bus) (ch : Channel) :
    (s.setChannel bus ch).env.responses = s.env.responses := by
  cases bus <;> rfl

@[simp] theorem State.setChannel_env_stream (s : State) (bus : Bus) (ch : Channel) :
    (s.setChannel bus ch).env.stream = s.env.stream := by
  cases bus <;> rfl

@[simp] theorem State.setChannel_io_dioIn (s : State) (ch : Channel) : (s.setChannel .io ch).env.dioIn = ch := rfl

@[simp] theorem State.setChannel_io_ctlIn (s : State) (ch : Channel) : (s.setChannel .io ch).env.ctlIn = s.env.ctlIn := rfl

@[simp] theorem State.setChannel_ctl_ctlIn (s : State) (ch : Channel) : (s.setChannel .ctl ch).env.ctlIn = ch := rfl

@[simp] theorem State.setChannel_ctl_dioIn (s : State) (ch : Channel) : (s.setChannel .ctl ch).env.dioIn = s.env.dioIn := rfl

/-! ### The bus-indexed views -/

@[simp] theorem State.shadow_io (s : State) : s.shadow .io = s.ioShadow := rfl

@[simp] theorem State.shadow_ctl (s : State) : s.shadow .ctl = s.ctlShadow := rfl

@[simp] theorem State.latch_io (s : State) : s.latch .io = s.ioLatch := rfl

@[simp] theorem State.latch_ctl (s : State) : s.latch .ctl = s.ctlLatch := rfl

@[simp] theorem State.channel_io (s : State) : s.channel .io = s.env.dioIn := rfl

@[simp] theorem State.channel_ctl (s : State) : s.channel .ctl = s.env.ctlIn := rfl

end Sys2Proof.Machine
end

