-- ==== Sys2Proof/Laws/Ops.lean ====
section
/-! SUPPORT. What the transport primitives and the helper procedures can do, each said once; and the arithmetic of the coming
answers of transport and device. -/

namespace Sys2Proof.Machine

/-! ### The coming answers -/

theorem Link.grants_add (a b : Nat) (l : Link) : l.grants (a + b) = (l.grants a && (l.spend a).grants b) := by
  induction a generalizing l with
  | zero => simp [Link.grants, Link.spend]
  | succ n ih =>
    rw [Nat.succ_add]
    simp only [Link.grants, Link.spend, ih, Bool.and_assoc]

theorem Link.spend_add (a b : Nat) (l : Link) : l.spend (a + b) = (l.spend a).spend b := by
  induction a generalizing l with
  | zero => simp [Link.spend]
  | succ n ih =>
    rw [Nat.succ_add]
    exact ih _

theorem Link.grants_succ {n : Nat} {l : Link} (h : l.grants (n + 1) = true) :
    l.ask.1 = true ∧ l.ask.2.grants n = true := by
  simpa [Link.grants] using h

/-- Calls that are all accepted, taken apart. -/
theorem Link.grants_split {a b : Nat} {l : Link} (h : l.grants (a + b) = true) :
    l.grants a = true ∧ (l.spend a).grants b = true := by
  rwa [Link.grants_add, Bool.and_eq_true] at h

/-- A direct-pin transport never fails (R8). -/
@[simp] theorem Link.grants_directPin (n : Nat) : Link.directPin.grants n = true := by
  induction n with
  | zero => rfl
  | succ n ih => simpa [Link.grants, Link.ask] using ih

@[simp] theorem Link.spend_directPin (n : Nat) : Link.directPin.spend n = .directPin := by
  induction n with
  | zero => rfl
  | succ n ih => simpa [Link.spend, Link.ask] using ih

@[simp] theorem Channel.length_ahead (free : Nat → Byte) (n : Nat) (ch : Channel) : (ch.ahead free n).length = n := by
  induction n generalizing ch with
  | zero => rfl
  | succ n ih => simp [Channel.ahead, ih]

theorem Channel.ahead_add (free : Nat → Byte) (a b : Nat) (ch : Channel) :
    ch.ahead free (a + b) = ch.ahead free a ++ (ch.skip free a).ahead free b := by
  induction a generalizing ch with
  | zero => simp [Channel.ahead, Channel.skip]
  | succ n ih =>
    rw [Nat.succ_add]
    simp [Channel.ahead, Channel.skip, ih]

theorem Channel.skip_add (free : Nat → Byte) (a b : Nat) (ch : Channel) :
    ch.skip free (a + b) = (ch.skip free a).skip free b := by
  induction a generalizing ch with
  | zero => simp [Channel.skip]
  | succ n ih =>
    rw [Nat.succ_add]
    exact ih _

/-- Reads of a script return its bytes in order (R269). -/
theorem Channel.ahead_script (free : Nat → Byte) (bytes rest : List Byte) (d : Nat) :
    Channel.ahead free bytes.length ⟨bytes ++ rest, d⟩ = bytes := by
  induction bytes with
  | nil => rfl
  | cons b bs ih => simpa [Channel.ahead, Channel.draw] using ih

/-! ### The transport primitives -/

/-- A write that the transport accepts (R22). -/
theorem tWrite_granted {bus : Bus} {v : Byte} {s : State} (h : s.env.link.ask.1 = true) :
    tWrite bus v s = .done () (((s.setLink s.env.link.ask.2).setLatch bus (some v)).log (writeEvent bus v)) := by
  simp [tWrite, h]

/-- A write that fails (R248). -/
theorem tWrite_failed {bus : Bus} {v : Byte} {s : State} (h : s.env.link.ask.1 = false) :
    tWrite bus v s = .failed (((s.setLink s.env.link.ask.2).setLatch bus none).failCall (.write bus)) := by
  simp [tWrite, h]

/-- A read that the transport accepts (R22). -/
theorem tRead_granted {bus : Bus} {s : State} (h : s.env.link.ask.1 = true) :
    tRead bus s = .done ((s.channel bus).draw (freeByte bus)).1
      (((s.setLink s.env.link.ask.2).setChannel bus ((s.channel bus).draw (freeByte bus)).2).log
        (readEvent bus ((s.channel bus).draw (freeByte bus)).1)) := by
  simp [tRead, h]

/-- A read that fails (R248). -/
theorem tRead_failed {bus : Bus} {s : State} (h : s.env.link.ask.1 = false) :
    tRead bus s = .failed ((s.setLink s.env.link.ask.2).failCall (.read bus)) := by
  simp [tRead, h]

/-- A configure call that the transport accepts (R22, R144). -/
theorem tConfig_granted {d : Dir} {s : State} (h : s.env.link.ask.1 = true) :
    tConfig d s = .done () ((((s.setLink s.env.link.ask.2).setLines (some d)).setDir d).log (.cfgIo d)) := by
  simp [tConfig, h]

/-- A configure call that fails (R144, R248). -/
theorem tConfig_failed {d : Dir} {s : State} (h : s.env.link.ask.1 = false) :
    tConfig d s = .failed (((s.setLink s.env.link.ask.2).setLines none).failCall .configIo) := by
  simp [tConfig, h]

end Sys2Proof.Machine
end

