-- ==== Sys2Proof/Laws/Micro.lean ====
section
/-! SUPPORT. Runs of micro-programs: their equations, their composition, and the one induction from which what every operation
keeps is derived. -/

namespace Sys2Proof.Machine

@[simp] theorem runMicros_nil (c : Config) (op : Instr) (k : Nat) (loc : Locals) (s : State) :
    runMicros c op [] k loc s = s.park op k loc := rfl

theorem runMicros_go {c : Config} {op : Instr} {m : Micro} {ms : List Micro} {k : Nat} {loc loc' : Locals}
    {s s' : State} (h : microEffect c loc s m = .go loc' s') :
    runMicros c op (m :: ms) k loc s = runMicros c op ms (k + 1) loc' s' := by
  simp [runMicros, h]

theorem runMicros_again {c : Config} {op : Instr} {m : Micro} {ms : List Micro} {k : Nat} {loc loc' : Locals}
    {s s' : State} (h : microEffect c loc s m = .again loc' s') :
    runMicros c op (m :: ms) k loc s = s'.park op k loc' := by
  simp [runMicros, h]

theorem runMicros_finish {c : Config} {op : Instr} {m : Micro} {ms : List Micro} {k : Nat} {loc : Locals}
    {s s' : State} {r : Response} (h : microEffect c loc s m = .finish r s') :
    runMicros c op (m :: ms) k loc s = s'.respond r := by
  simp [runMicros, h]

theorem runMicros_stop {c : Config} {op : Instr} {m : Micro} {ms : List Micro} {k : Nat} {loc loc' : Locals}
    {s s' : State} {st : Status} (h : microEffect c loc s m = .stop st loc' s') :
    runMicros c op (m :: ms) k loc s = s'.respond ⟨st, errorData op loc' s'⟩ := by
  simp [runMicros, h]

/-- An error gives no data, but for DUMP (R123, R226). -/
@[simp] theorem errorData_of_ne {op : Instr} (h : op ≠ .dump) (loc : Locals) (s : State) : errorData op loc s = [] :=
  if_neg h

@[simp] theorem errorData_dump (loc : Locals) (s : State) : errorData .dump loc s = dumped loc s := rfl

/-- What one micro-step leads to satisfies P, whichever way it goes. -/
def Effect.All (P : State → Prop) : Effect → Prop
  | .go _ s => P s
  | .again _ s => P s
  | .finish _ s => P s
  | .stop _ _ s => P s

/-- A property of states that every micro-step of a list keeps, and that parking and answering keep, holds after the run. -/
theorem runMicros_keeps {P : State → Prop} {c : Config} {op : Instr} (hpark : ∀ s k loc, P s → P (s.park op k loc))
    (hresp : ∀ s r, P s → P (s.respond r)) {ms : List Micro}
    (hstep : ∀ m ∈ ms, ∀ loc s, P s → (microEffect c loc s m).All P) (k : Nat) (loc : Locals) {s : State} (h : P s) :
    P (runMicros c op ms k loc s) := by
  induction ms generalizing k loc s with
  | nil => exact hpark s k loc h
  | cons m ms ih =>
    have hm := hstep m (by simp) loc s h
    cases he : microEffect c loc s m with
    | go loc' s' =>
      rw [runMicros_go he]
      rw [he] at hm
      exact ih (fun m' hm' => hstep m' (by simp [hm'])) (k + 1) loc' hm
    | again loc' s' =>
      rw [runMicros_again he]
      rw [he] at hm
      exact hpark s' k loc' hm
    | finish r s' =>
      rw [runMicros_finish he]
      rw [he] at hm
      exact hresp s' r hm
    | stop st loc' s' =>
      rw [runMicros_stop he]
      rw [he] at hm
      exact hresp s' _ hm

/-- The micro-steps of a list all lead on, from (loc, s) to (loc', s'). -/
def Leads (c : Config) : List Micro → Locals → State → Locals → State → Prop
  | [], loc, s, loc', s' => loc' = loc ∧ s' = s
  | m :: ms, loc, s, loc', s' => ∃ l t, microEffect c loc s m = .go l t ∧ Leads c ms l t loc' s'

theorem Leads.append {c : Config} {ms ns : List Micro} {loc loc' loc'' : Locals} {s s' s'' : State}
    (h : Leads c ms loc s loc' s') (h' : Leads c ns loc' s' loc'' s'') : Leads c (ms ++ ns) loc s loc'' s'' := by
  induction ms generalizing loc s with
  | nil =>
    obtain ⟨rfl, rfl⟩ := h
    exact h'
  | cons m ms ih =>
    obtain ⟨l, t, hm, ht⟩ := h
    exact ⟨l, t, hm, ih ht⟩

/-- A part of a micro-program that leads on is passed over in one go. -/
theorem runMicros_leads {c : Config} {op : Instr} {ms ns : List Micro} {k : Nat} {loc loc' : Locals} {s s' : State}
    (h : Leads c ms loc s loc' s') :
    runMicros c op (ms ++ ns) k loc s = runMicros c op ns (k + ms.length) loc' s' := by
  induction ms generalizing k loc s with
  | nil =>
    obtain ⟨rfl, rfl⟩ := h
    rfl
  | cons m ms ih =>
    obtain ⟨l, t, hm, ht⟩ := h
    rw [List.cons_append, runMicros_go hm, ih ht, List.length_cons]
    congr 1
    omega

/-- The final micro-step of an operation. -/
@[simp] theorem runMicros_answer (c : Config) (op : Instr) (a : Answer) (ms : List Micro) (k : Nat) (loc : Locals)
    (s : State) : runMicros c op (.answer a :: ms) k loc s = s.respond (response c loc s a) := rfl

/-- Every meaning, in Idle, is `perform` at the standard configuration. -/
theorem exec_idle (i : Instr) {s : State} (h : s.seq = .idle) : exec i s = .next (perform Config.standard i s) := by
  cases i <;>
    simp [exec, perform, microProgram, issue, h, execSetpin, execFlush, execRead, execSetdir, execCmdlatch,
      execAddrlatch, execLatchout, execBusypoll, execMap, execIdentify, execPageread, execDump, execErase,
      execProgram]

/-- Everything a meaning can do: run its micro-program from Idle. -/
theorem exec_next {i : Instr} {s t : State} (h : exec i s = .next t) :
    s.seq = .idle ∧ t = perform Config.standard i s := by
  cases hs : s.seq with
  | idle =>
    rw [exec_idle i hs] at h
    exact ⟨rfl, (Host.Outcome.next.inj h).symm⟩
  | run op k loc =>
    cases i <;>
      simp [exec, issue, hs, execSetpin, execFlush, execRead, execSetdir, execCmdlatch, execAddrlatch, execLatchout,
        execBusypoll, execMap, execIdentify, execPageread, execDump, execErase, execProgram] at h

end Sys2Proof.Machine
end

