-- ==== Sys2Proof/Laws/Operands.lean ====
section
/-! SUPPORT. The bits of a bus byte under SETPIN's and the engine's single-bit updates, at any pin map and at the default one. -/

namespace Sys2Proof.Machine

/-- One bit takes the level, the other seven keep theirs. -/
theorem setBit_getLsbD (v : Byte) (i : PinPos) (on : Bool) (j : Nat) (hj : j < 8) :
    (setBit v i on).getLsbD j = if j = i.toNat then on else v.getLsbD j := by
  have key : (1#8 <<< i.toNat).getLsbD j = decide (j = i.toNat) := by
    rw [BitVec.getLsbD_shiftLeft, BitVec.getLsbD_one]
    by_cases h : j = i.toNat
    · simp [h]
      omega
    · simp only [h, decide_false]
      have : ¬ (j < 8 ∧ i.toNat ≤ j ∧ j - i.toNat = 0) := by omega
      simp_all
  unfold setBit
  cases on <;> by_cases h : j = i.toNat
  · rw [if_neg (by simp), BitVec.getLsbD_and, BitVec.getLsbD_not, key]
    simp [h]
  · rw [if_neg (by simp), BitVec.getLsbD_and, BitVec.getLsbD_not, key]
    simp [h, hj]
  · rw [if_pos rfl, BitVec.getLsbD_or, key]
    simp [h]
  · rw [if_pos rfl, BitVec.getLsbD_or, key]
    simp [h]

@[simp] theorem signal_setSignal_same (c : Config) (v : Byte) (S : CtlSignal) (level : Bool) :
    signal c (setSignal c v S level) S = level := by
  unfold signal setSignal
  rw [setBit_getLsbD _ _ _ _ (c.pin S).isLt]
  simp

theorem signal_setSignal_of_ne (c : Config) (v : Byte) {S T : CtlSignal} (level : Bool) (h : c.pin T ≠ c.pin S) :
    signal c (setSignal c v S level) T = signal c v T := by
  unfold signal setSignal
  rw [setBit_getLsbD _ _ _ _ (c.pin T).isLt, if_neg fun e => h (BitVec.eq_of_toNat_eq e)]

/-- Two bytes with the same bits are the same byte. -/
theorem byte_ext {u v : Byte} (h : ∀ j < 8, u.getLsbD j = v.getLsbD j) : u = v :=
  BitVec.eq_of_getLsbD_eq h

theorem setBit_setBit_same (v : Byte) (i : PinPos) (a b : Bool) : setBit (setBit v i a) i b = setBit v i b := by
  refine byte_ext fun j hj => ?_
  rw [setBit_getLsbD _ _ _ _ hj, setBit_getLsbD _ _ _ _ hj, setBit_getLsbD _ _ _ _ hj]
  split <;> rfl

theorem setBit_comm (v : Byte) {i j : PinPos} (h : i ≠ j) (a b : Bool) :
    setBit (setBit v i a) j b = setBit (setBit v j b) i a := by
  refine byte_ext fun k hk => ?_
  have hn : i.toNat ≠ j.toNat := fun e => h (BitVec.eq_of_toNat_eq e)
  rw [setBit_getLsbD _ _ _ _ hk, setBit_getLsbD _ _ _ _ hk, setBit_getLsbD _ _ _ _ hk, setBit_getLsbD _ _ _ _ hk]
  by_cases h1 : k = i.toNat <;> by_cases h2 : k = j.toNat <;> simp_all

/-- Setting a bit to the level it has changes nothing. -/
theorem setBit_self (v : Byte) (i : PinPos) {on : Bool} (h : v.getLsbD i.toNat = on) : setBit v i on = v := by
  refine byte_ext fun j hj => ?_
  rw [setBit_getLsbD _ _ _ _ hj]
  split
  · rename_i e
    rw [e, h]
  · rfl

@[simp] theorem setSignal_setSignal_same (c : Config) (v : Byte) (S : CtlSignal) (a b : Bool) :
    setSignal c (setSignal c v S a) S b = setSignal c v S b :=
  setBit_setBit_same v (c.pin S) a b

theorem setSignal_comm (c : Config) (v : Byte) {S T : CtlSignal} (h : c.pin S ≠ c.pin T) (a b : Bool) :
    setSignal c (setSignal c v S a) T b = setSignal c (setSignal c v T b) S a :=
  setBit_comm v h a b

theorem setSignal_self (c : Config) (v : Byte) (S : CtlSignal) {level : Bool} (h : signal c v S = level) :
    setSignal c v S level = v :=
  setBit_self v (c.pin S) h

/-- The default pin map puts different signals at different pins. -/
theorem standard_pin_ne {S T : CtlSignal} (h : S ≠ T) : Config.standard.pin S ≠ Config.standard.pin T := by
  cases S <;> cases T <;> first | exact absurd rfl h | decide

/-- A well-formed pin map puts different signals at different pins (R13). -/
theorem Config.pin_ne {c : Config} (hc : c.wellFormed = true) {S T : CtlSignal} (h : S ≠ T) : c.pin S ≠ c.pin T := by
  have hn : (CtlSignal.all.map c.pin).Nodup := by
    simp only [Config.wellFormed, Bool.and_eq_true, decide_eq_true_eq] at hc
    exact hc.1
  have hall : ∀ U : CtlSignal, U ∈ CtlSignal.all := fun U => by cases U <;> decide
  exact fun e => h (List.inj_on_of_nodup_map hn (hall S) (hall T) e)

theorem standard_wellFormed : Config.standard.wellFormed = true := by decide

@[simp] theorem mapCycles_length (a : Word) : (mapCycles a).length = 5 := rfl

@[simp] theorem rowCycles_length (a : Word) : (rowCycles a).length = 3 := rfl

end Sys2Proof.Machine
end

