-- ==== Sys2Proof/Laws/PerInstr.lean ====
section
/-! SUPPORT. The statements made operation by operation: where an operation's descriptor lies (30_encoding.md R101, R110, R111). -/

namespace Sys2Proof.Laws.MatchMask

/-- A descriptor that encodes the operation carries its operation code in the top byte (R101, R110) and meets its match and mask
constants (R111). -/
def Statement (i : Instr) : Prop :=
  (encode i).extractLsb' 56 8 = opcode i ∧ encode i &&& maskWord i = matchWord i

/-- A word whose part above bit v is fixed, under a mask that keeps that part alone. -/
theorem append_and_mask {u v : Nat} (x m : BitVec u) (y : BitVec v) (h : x &&& m = x) :
    (x ++ y) &&& (m ++ 0#v) = x ++ 0#v := by
  refine BitVec.eq_of_getLsbD_eq fun i _ => ?_
  rw [BitVec.getLsbD_and, BitVec.getLsbD_append, BitVec.getLsbD_append, BitVec.getLsbD_append]
  split
  · simp
  · rw [← BitVec.getLsbD_and, h]

theorem setpin (bus : Bus) (pin : PinPos) (on : Bool) : Statement (.setpin bus pin on) := by
  refine ⟨opcode_encode _, ?_⟩
  cases bus <;> cases on <;> revert pin <;> decide

theorem flush (bus : Bus) : Statement (.flush bus) := ⟨opcode_encode _, by cases bus <;> rfl⟩

theorem read (bus : Bus) : Statement (.read bus) := ⟨opcode_encode _, by cases bus <;> rfl⟩

theorem setdir (dir : Dir) : Statement (.setdir dir) := ⟨opcode_encode _, by cases dir <;> rfl⟩

theorem cmdlatch (cmd : Byte) : Statement (.cmdlatch cmd) :=
  ⟨opcode_encode _, append_and_mask (0x21#8 ++ 0#48) 0xFFFFFFFFFFFFFF#56 cmd (by decide)⟩

theorem addrlatch (bytes : List Byte) : Statement (.addrlatch bytes) := by
  refine ⟨opcode_encode _, ?_⟩
  refine BitVec.eq_of_getLsbD_eq fun i hi => ?_
  rw [BitVec.getLsbD_and]
  by_cases h : i < 43
  · have hm : ∀ i < 43, (maskWord (.addrlatch [])).getLsbD i = false ∧ (matchWord (.addrlatch [])).getLsbD i = false := by
      decide
    rw [show maskWord (.addrlatch bytes) = maskWord (.addrlatch []) from rfl, (hm i h).1, Bool.and_false]
    exact (hm i h).2.symm
  · have hm : ∀ j < 21, (maskWord (.addrlatch [])).getLsbD (43 + j) = true ∧
        (matchWord (.addrlatch [])).getLsbD (43 + j) = (0x22#8 ++ 0#13).getLsbD j := by decide
    obtain ⟨j, rfl⟩ : ∃ j, i = 43 + j := ⟨i - 43, by omega⟩
    rw [show maskWord (.addrlatch bytes) = maskWord (.addrlatch []) from rfl, (hm j (by omega)).1, Bool.and_true]
    refine Eq.trans ?_ (hm j (by omega)).2.symm
    rw [BitVec.getLsbD_append]
    split
    · next hj => simpa [hj] using congrArg (fun x => x.getLsbD j) (addrlatch_reserved bytes)
    · next hj =>
      have := congrArg (fun x => x.getLsbD (j - 13)) (opcode_encode (.addrlatch bytes))
      simp only [BitVec.getLsbD_extractLsb', show j - 13 < 8 by omega, decide_true, Bool.true_and,
        show 56 + (j - 13) = 43 + j by omega] at this
      exact this

theorem latchout (n : Word) : Statement (.latchout n) :=
  ⟨opcode_encode _, append_and_mask (0x23#8 ++ 0#24) 0xFFFFFFFF#32 n (by decide)⟩

theorem busypoll : Statement .busypoll := ⟨opcode_encode _, rfl⟩

theorem map (address : Word) : Statement (.map address) :=
  ⟨opcode_encode _, append_and_mask (0x41#8 ++ 0#24) 0xFFFFFFFF#32 address (by decide)⟩

theorem identify : Statement .identify := ⟨opcode_encode _, rfl⟩

theorem pageread (page : Word) : Statement (.pageread page) :=
  ⟨opcode_encode _, append_and_mask (0x52#8 ++ 0#24) 0xFFFFFFFF#32 page (by decide)⟩

theorem dump : Statement .dump := ⟨opcode_encode _, rfl⟩

theorem erase (block : Word) : Statement (.erase block) :=
  ⟨opcode_encode _, append_and_mask (0x54#8 ++ 0#24) 0xFFFFFFFF#32 block (by decide)⟩

theorem program : Statement .program := ⟨opcode_encode _, rfl⟩

end Sys2Proof.Laws.MatchMask
end

