-- ==== Sys2Proof/Laws/Steps.lean ====
section
/-! SUPPORT. What each part of a micro-program does when no transport call fails: the micro-steps lead on to the end states of
Safety.lean. The provers cite these instead of unfolding the micro-programs. -/

namespace Sys2Proof.Machine

/-! ### Single micro-steps -/

theorem drivePin_granted {c : Config} {S : CtlSignal} {level : Bool} {s : State} (h : s.env.link.ask.1 = true) :
    drivePin c S level s = .done () (drivePinEnd c S level s) := by
  simp only [drivePin, flushBus, tWrite]
  exact if_pos h

theorem driveIo_granted {b : Byte} {s : State} (h : s.env.link.ask.1 = true) :
    driveIo b s = .done () { s.spend 1 0 0 with ioShadow := b, ioLatch := some b, hist := s.hist ++ [.wrIo b] } := by
  simp only [driveIo, flushBus, tWrite]
  exact if_pos h

theorem check_passes {c : Config} {pre : List (CtlSignal × Bool)} {loc : Locals} {s : State} (hf : s.fault = none)
    (h : passes c pre s.ctlShadow = true) : microEffect c loc s (.check pre) = .go loc s := by
  simp [microEffect, hf, h]

theorem check_refuses {c : Config} {pre : List (CtlSignal × Bool)} {loc : Locals} {s : State} (hf : s.fault = none)
    (h : passes c pre s.ctlShadow = false) :
    microEffect c loc s (.check pre) = .stop .precondition loc s := by
  simp [microEffect, hf, h]

theorem check_faulted {c : Config} {pre : List (CtlSignal × Bool)} {loc : Locals} {s : State}
    (hf : s.fault = some .transport) : microEffect c loc s (.check pre) = .stop .transport loc s := by
  simp [microEffect, hf]

theorem raise_goes {c : Config} {S : CtlSignal} {loc : Locals} {s : State} (h : s.env.link.ask.1 = true) :
    microEffect c loc s (.raise S) = .go loc (drivePinEnd c S true s) := by
  simp [microEffect, drivePin_granted h, afterCall]

theorem lower_goes {c : Config} {S : CtlSignal} {loc : Locals} {s : State} (h : s.env.link.ask.1 = true) :
    microEffect c loc s (.lower S) = .go loc (drivePinEnd c S false s) := by
  simp [microEffect, drivePin_granted h, afterCall]

theorem drive_goes {c : Config} {b : Byte} {loc : Locals} {s : State} (h : s.env.link.ask.1 = true) :
    microEffect c loc s (.drive b) =
      .go loc { s.spend 1 0 0 with ioShadow := b, ioLatch := some b, hist := s.hist ++ [.wrIo b] } := by
  simp [microEffect, driveIo_granted h, afterCall]

theorem fetchByte_goes {c : Config} {loc : Locals} {s : State} (h : s.env.link.ask.1 = true) :
    microEffect c loc s .fetchByte =
      .go loc { s.spend 1 1 0 with
        obuf := s.obuf ++ s.dioAhead 1
        hist := s.hist ++ (s.dioAhead 1).map .rdIo } := by
  simp only [microEffect, tRead_granted h, afterCall]
  rfl

theorem turnIn_goes {c : Config} {loc : Locals} {s : State} (h : s.env.link.ask.1 = true) :
    microEffect c loc s .turnIn =
      .go loc { s.spend 1 0 0 with
        ioDir := .input
        obuf := []
        hist := s.hist ++ [.cfgIo .input]
        env := { (s.spend 1 0 0).env with lineDir := some .input } } := by
  have h' : (s.setObuf []).env.link.ask.1 = true := h
  simp only [microEffect, tConfig_granted h', afterCall]
  rfl

theorem config_goes {c : Config} {d : Dir} {loc : Locals} {s : State} (h : s.env.link.ask.1 = true) :
    microEffect c loc s (.config d) =
      .go loc { s.spend 1 0 0 with
        ioDir := d
        hist := s.hist ++ [.cfgIo d]
        env := { (s.spend 1 0 0).env with lineDir := some d } } := by
  simp only [microEffect, tConfig_granted h, afterCall]
  rfl

/-- A busy-poll read that is ready (R171). -/
theorem poll_ready {c : Config} {loc : Locals} {s : State} (h : s.env.link.ask.1 = true)
    (hr : (s.ctlAhead 1).map (ready c) = [true]) :
    microEffect c loc s .poll = .go { loc with polls := 0 } (pollEnd 1 s) := by
  have hr' : ready c (s.env.ctlIn.draw Config.freeCtlByte).1 = true := by
    simpa [State.ctlAhead, Channel.ahead] using hr
  simp only [microEffect, tRead_granted h, afterCall, afterPoll, State.channel_ctl, freeByte]
  rw [if_pos hr']
  rfl

/-- A busy-poll read that is not ready, below the limit (R171). -/
theorem poll_unready {c : Config} {loc : Locals} {s : State} (h : s.env.link.ask.1 = true)
    (hr : (s.ctlAhead 1).map (ready c) = [false]) (hl : limitReached c (loc.polls + 1) = false) :
    microEffect c loc s .poll = .again { loc with polls := loc.polls + 1 } (pollEnd 1 s) := by
  have hr' : ready c (s.env.ctlIn.draw Config.freeCtlByte).1 = false := by
    simpa [State.ctlAhead, Channel.ahead] using hr
  simp only [microEffect, tRead_granted h, afterCall, afterPoll, State.channel_ctl, freeByte]
  rw [if_neg (by simp [hr']), if_neg (by simp [hl])]
  rfl

/-! ### Whole parts -/

/-- Command Latch (R163). -/
theorem cmdlatchSteps_leads {c : Config} (hc : c.wellFormed = true) {cmd : Byte} {loc : Locals} {s : State}
    (hf : s.fault = none) (hp : passes c cmdlatchPre s.ctlShadow = true) (hg : s.env.link.grants 5 = true) :
    Leads c (cmdlatchSteps cmd) loc s loc (cmdlatchEnd c cmd s) := by
  obtain ⟨h1, hg⟩ := Link.grants_succ hg
  obtain ⟨h2, hg⟩ := Link.grants_succ hg
  obtain ⟨h3, hg⟩ := Link.grants_succ hg
  obtain ⟨h4, hg⟩ := Link.grants_succ hg
  obtain ⟨h5, -⟩ := Link.grants_succ hg
  refine ⟨_, _, check_passes hf hp, _, _, raise_goes h1, _, _, lower_goes h2, _, _, drive_goes h3, _, _,
    raise_goes h4, _, _, lower_goes h5, rfl, ?_⟩
  have hne := Config.pin_ne hc (show CtlSignal.cle ≠ CtlSignal.nwe by decide)
  ext1 <;> simp [cmdlatchEnd, drivePinEnd, State.spend, cmdlatchShadow, cmdlatchEvents, Link.spend, Channel.skip,
    setSignal_comm c _ hne]

/-- Where the address loop of Address Latch ends, from a shadow that has ALE already up (R166). -/
def addressLoopEnd (c : Config) (bytes : List Byte) (s : State) : State :=
  { s.spend (3 * bytes.length) 0 0 with
    ctlShadow := if bytes = [] then s.ctlShadow else setSignal c s.ctlShadow .nwe true
    ctlLatch := if bytes = [] then s.ctlLatch else some (setSignal c s.ctlShadow .nwe true)
    ioShadow := bytes.getLast?.getD s.ioShadow
    ioLatch := bytes.getLast?.or s.ioLatch
    hist := s.hist ++ bytes.flatMap fun b =>
      [.wrCtl (setSignal c s.ctlShadow .nwe false), .delay .settle, .wrIo b, .delay .setup,
        .wrCtl (setSignal c s.ctlShadow .nwe true), .delay .whold] }

theorem addressLoop_leads {c : Config} {bytes : List Byte} {loc : Locals} {s : State}
    (hg : s.env.link.grants (3 * bytes.length) = true) :
    Leads c (bytes.flatMap addressSteps) loc s loc (addressLoopEnd c bytes s) := by
  induction bytes generalizing s with
  | nil => exact ⟨rfl, by ext1 <;> simp [addressLoopEnd, State.spend, Link.spend, Channel.skip]⟩
  | cons b bs ih =>
    have hlen : 3 * (b :: bs).length = 3 * bs.length + 1 + 1 + 1 := by simp [Nat.mul_add]
    rw [hlen] at hg
    obtain ⟨h1, hg⟩ := Link.grants_succ hg
    obtain ⟨h2, hg⟩ := Link.grants_succ hg
    obtain ⟨h3, hg⟩ := Link.grants_succ hg
    refine Leads.append (ms := addressSteps b) ⟨_, _, lower_goes h1, _, _, rfl, _, _, drive_goes h2, _, _, rfl, _, _,
      raise_goes h3, _, _, rfl, rfl, rfl⟩ ?_
    refine Eq.mp (congrArg (Leads c _ loc _ loc) ?_) (ih hg)
    rw [addressLoopEnd, addressLoopEnd, hlen]
    ext1 <;> cases bs <;> simp [State.spend, State.log, drivePinEnd, Link.spend, Channel.skip, List.getLast?_cons]

/-- Address Latch (R166). -/
theorem addrlatchSteps_leads {c : Config} (hc : c.wellFormed = true) {bytes : List Byte} {loc : Locals} {s : State}
    (hf : s.fault = none) (hp : passes c addrlatchPre s.ctlShadow = true)
    (hg : s.env.link.grants (2 + 3 * bytes.length) = true) :
    Leads c (addrlatchSteps bytes) loc s loc (addrlatchEnd c bytes s) := by
  rw [show 2 + 3 * bytes.length = 1 + (3 * bytes.length + 1) by omega, Link.grants_add, Link.grants_add] at hg
  simp only [Bool.and_eq_true] at hg
  obtain ⟨h1, hg, h2⟩ := hg
  refine Leads.append (Leads.append (loc' := loc) (s' := drivePinEnd c .ale true s)
    ⟨_, _, check_passes hf hp, _, _, raise_goes (Link.grants_succ h1).1, rfl, rfl⟩ (addressLoop_leads hg))
    ⟨_, _, lower_goes (Link.grants_succ h2).1, rfl, ?_⟩
  have hne := Config.pin_ne hc (show CtlSignal.ale ≠ CtlSignal.nwe by decide)
  have hsp : ∀ l : Link, ((l.ask.2.spend (3 * bytes.length)).spend 1) = l.spend (2 + 3 * bytes.length) := fun l => by
    rw [show 2 + 3 * bytes.length = 1 + (3 * bytes.length + 1) by omega, Link.spend_add, Link.spend_add]
    rfl
  have hev : addressEvents c s.ctlShadow = fun b =>
      [.wrCtl (setSignal c (setSignal c s.ctlShadow .ale true) .nwe false), .delay .settle, .wrIo b, .delay .setup,
        .wrCtl (setSignal c (setSignal c s.ctlShadow .ale true) .nwe true), .delay .whold] := rfl
  ext1
  case env => ext1 <;> simp [addrlatchEnd, addressLoopEnd, drivePinEnd, State.spend, ← hsp, Channel.skip, Link.spend]
  all_goals
    by_cases hb : bytes = [] <;>
    simp [addrlatchEnd, addressLoopEnd, drivePinEnd, State.spend, addrlatchShadow, addrlatchEvents, hev, hb,
      setSignal_comm c _ hne]

/-- Where the read cycles of Register Latch-Out end (R169). -/
def readLoopEnd (c : Config) (n : Nat) (s : State) : State :=
  { s.spend (3 * n) n 0 with
    ctlShadow := if n = 0 then s.ctlShadow else setSignal c s.ctlShadow .nre true
    ctlLatch := if n = 0 then s.ctlLatch else some (setSignal c s.ctlShadow .nre true)
    obuf := s.obuf ++ s.dioAhead n
    hist := s.hist ++ (s.dioAhead n).flatMap (readEvents c s.ctlShadow) }

theorem readCycles_leads {c : Config} {n : Nat} {loc : Locals} {s : State} (hg : s.env.link.grants (3 * n) = true) :
    Leads c (readCycles n) loc s loc (readLoopEnd c n s) := by
  induction n generalizing s with
  | zero => exact ⟨rfl, by ext1 <;> simp [readLoopEnd, State.spend, Link.spend, Channel.skip, State.dioAhead, Channel.ahead]⟩
  | succ n ih =>
    have hlen : 3 * (n + 1) = 3 * n + 1 + 1 + 1 := by omega
    rw [hlen] at hg
    obtain ⟨h1, hg⟩ := Link.grants_succ hg
    obtain ⟨h2, hg⟩ := Link.grants_succ hg
    obtain ⟨h3, hg⟩ := Link.grants_succ hg
    refine Leads.append (ms := readCycle) ⟨_, _, lower_goes h1, _, _, rfl, _, _, fetchByte_goes h2, _, _,
      raise_goes h3, _, _, rfl, rfl, rfl⟩ ?_
    refine Eq.mp (congrArg (Leads c _ loc _ loc) ?_) (ih hg)
    rw [readLoopEnd, readLoopEnd, hlen]
    have hev : readEvents c (setSignal c s.ctlShadow .nre true) = readEvents c s.ctlShadow := by
      funext b
      simp [readEvents]
    ext1 <;> cases n <;>
      simp [State.spend, State.log, drivePinEnd, Link.spend, Channel.skip, State.dioAhead, Channel.ahead, hev] <;>
      simp [readEvents]

/-- Register Latch-Out (R169). -/
theorem latchoutSteps_leads {c : Config} {n : Nat} {loc : Locals} {s : State} (hf : s.fault = none)
    (hp : passes c latchoutPre s.ctlShadow = true) (hg : s.env.link.grants (2 + 3 * n) = true) :
    Leads c (latchoutSteps n) loc s loc (latchoutEnd c n s) := by
  rw [show 2 + 3 * n = 1 + (3 * n + 1) by omega, Link.grants_add, Link.grants_add] at hg
  simp only [Bool.and_eq_true] at hg
  obtain ⟨h1, hg, h2⟩ := hg
  refine Leads.append (Leads.append ⟨_, _, check_passes hf hp, _, _, turnIn_goes (Link.grants_succ h1).1, rfl, rfl⟩
    (readCycles_leads hg)) ⟨_, _, config_goes (Link.grants_succ h2).1, rfl, ?_⟩
  have hsp : ∀ l : Link, ((l.ask.2.spend (3 * n)).spend 1) = l.spend (2 + 3 * n) := fun l => by
    rw [show 2 + 3 * n = 1 + (3 * n + 1) by omega, Link.spend_add, Link.spend_add]
    rfl
  ext1
  case env => ext1 <;> simp [latchoutEnd, readLoopEnd, State.spend, ← hsp, Link.spend, Channel.skip]
  all_goals simp [latchoutEnd, readLoopEnd, State.spend, latchoutEvents, Channel.skip, State.dioAhead]

/-- A busy-poll whose first read is ready (R172). -/
theorem busypollSteps_leads {c : Config} {loc : Locals} {s : State} (hf : s.fault = none)
    (hp : passes c (busypollPre c) s.ctlShadow = true) (hg : s.env.link.grants 1 = true)
    (hr : (s.ctlAhead 1).map (ready c) = [true]) (h0 : loc.polls = 0) :
    Leads c (busypollSteps c) loc s loc (pollEnd 1 s) := by
  refine ⟨_, _, check_passes hf hp, _, _, poll_ready (Link.grants_succ hg).1 hr, ?_, rfl⟩
  cases loc
  simp_all

/-! ### The precondition tests, and what the end states keep of them -/

theorem passes_cmdlatch {c : Config} {v : Byte} :
    passes c cmdlatchPre v = true ↔ signal c v .nce = false ∧ signal c v .nre = true := by
  simp [passes, cmdlatchPre]

theorem passes_addrlatch {c : Config} {v : Byte} :
    passes c addrlatchPre v = true ↔
      signal c v .nce = false ∧ signal c v .cle = false ∧ signal c v .nre = true := by
  simp [passes, addrlatchPre]

theorem passes_latchout {c : Config} {v : Byte} :
    passes c latchoutPre v = true ↔
      signal c v .nce = false ∧ signal c v .nwe = true ∧ signal c v .ale = false := by
  simp [passes, latchoutPre]

theorem passes_busypoll {c : Config} {v : Byte} :
    passes c (busypollPre c) v = true ↔ (c.busypollNceCheck = true → signal c v .nce = false) := by
  unfold passes busypollPre
  cases c.busypollNceCheck <;> simp

/-- A write of one signal leaves every other signal (R23). -/
theorem signal_setSignal {c : Config} (hc : c.wellFormed = true) (v : Byte) (S T : CtlSignal) (level : Bool) :
    signal c (setSignal c v S level) T = if T = S then level else signal c v T := by
  split
  · next h => rw [h, signal_setSignal_same]
  · next h => exact signal_setSignal_of_ne c v level (Config.pin_ne hc h)

theorem signal_cmdlatchShadow {c : Config} (hc : c.wellFormed = true) (v : Byte) (T : CtlSignal) :
    signal c (cmdlatchShadow c v) T = if T = .cle then false else if T = .nwe then true else signal c v T := by
  simp [cmdlatchShadow, signal_setSignal hc]

theorem signal_addrlatchShadow {c : Config} (hc : c.wellFormed = true) (v : Byte) (b : Byte) (bs : List Byte)
    (T : CtlSignal) :
    signal c (addrlatchShadow c v (b :: bs)) T =
      if T = .ale then false else if T = .nwe then true else signal c v T := by
  simp [addrlatchShadow, signal_setSignal hc]

/-- One page read that is ready at its first poll (R212): from nCE=0 and nRE=1 its five parts all pass their preconditions. -/
theorem pagereadSteps_leads {c : Config} (hc : c.wellFormed = true) {page : Word} {loc : Locals} {s : State}
    (hf : s.fault = none) (hce : signal c s.ctlShadow .nce = false) (hre : signal c s.ctlShadow .nre = true)
    (hg : s.env.link.grants (pagereadCalls c 1) = true) (hr : (s.ctlAhead 1).map (ready c) = [true])
    (h0 : loc.polls = 0) : Leads c (pagereadSteps c page) loc s loc (pagereadEnd c page 1 s) := by
  obtain ⟨hg, h5⟩ := Link.grants_split hg
  obtain ⟨hg, h4⟩ := Link.grants_split hg
  obtain ⟨hg, h3⟩ := Link.grants_split hg
  obtain ⟨h1, h2⟩ := Link.grants_split hg
  simp only [Link.spend_add 5 17, Link.spend_add (5 + 17) 5, Link.spend_add (5 + 17 + 5) 1] at h3 h4 h5
  obtain ⟨a, as, ha⟩ : ∃ a as, mapCycles (readAddress c page) = a :: as := ⟨_, _, rfl⟩
  refine Leads.append (Leads.append (Leads.append (Leads.append
    (cmdlatchSteps_leads hc hf (passes_cmdlatch.2 ⟨hce, hre⟩) h1)
    (addrlatchSteps_leads hc hf (passes_addrlatch.2 ?_) h2))
    (cmdlatchSteps_leads hc hf (passes_cmdlatch.2 ?_) h3))
    (busypollSteps_leads hf (passes_busypoll.2 fun _ => ?_) h4 hr h0))
    (latchoutSteps_leads hf (passes_latchout.2 ?_) h5)
  all_goals
    simp [cmdlatchEnd, addrlatchEnd, pollEnd, State.spend, signal_cmdlatchShadow hc, ha,
      signal_addrlatchShadow hc, hce, hre]

/-- ERASE up to its answer, ready at its first poll (R218): from nCE=0 and nRE=1 its parts all pass their preconditions. -/
theorem eraseSteps_leads {c : Config} (hc : c.wellFormed = true) {block : Word} {loc : Locals} {s : State}
    (hf : s.fault = none) (hce : signal c s.ctlShadow .nce = false) (hre : signal c s.ctlShadow .nre = true)
    (hg : s.env.link.grants (eraseCalls 1) = true) (hr : (s.ctlAhead 1).map (ready c) = [true]) (h0 : loc.polls = 0) :
    Leads c (([.check [], .raise .nwp] ++ cmdlatchSteps cmdEraseSetup ++
      addrlatchSteps (rowCycles (eraseAddress c block)) ++ cmdlatchSteps cmdEraseConfirm ++ busypollSteps c ++
      cmdlatchSteps cmdReadStatus ++ latchoutSteps 1) ++ [.lower .nwp]) loc s loc (eraseEnd c block 1 s) := by
  rw [show eraseCalls 1 = 1 + 5 + 11 + 5 + 1 + 5 + 5 + 1 from rfl] at hg
  obtain ⟨hg, h8⟩ := Link.grants_split hg
  obtain ⟨hg, h7⟩ := Link.grants_split hg
  obtain ⟨hg, h6⟩ := Link.grants_split hg
  obtain ⟨hg, h5⟩ := Link.grants_split hg
  obtain ⟨hg, h4⟩ := Link.grants_split hg
  obtain ⟨hg, h3⟩ := Link.grants_split hg
  obtain ⟨h1, h2⟩ := Link.grants_split hg
  obtain ⟨a, as, ha⟩ : ∃ a as, rowCycles (eraseAddress c block) = a :: as := ⟨_, _, rfl⟩
  refine Leads.append (Leads.append (Leads.append (Leads.append (Leads.append (Leads.append (Leads.append
    (loc' := loc) (s' := drivePinEnd c .nwp true s)
    ⟨_, _, check_passes hf rfl, _, _, raise_goes (Link.grants_succ h1).1, rfl, rfl⟩
    (cmdlatchSteps_leads hc hf (passes_cmdlatch.2 ?_) h2))
    (addrlatchSteps_leads hc hf (passes_addrlatch.2 ?_) h3))
    (cmdlatchSteps_leads hc hf (passes_cmdlatch.2 ?_) h4))
    (busypollSteps_leads hf (passes_busypoll.2 fun _ => ?_) h5 hr h0))
    (cmdlatchSteps_leads hc hf (passes_cmdlatch.2 ?_) h6))
    (latchoutSteps_leads hf (passes_latchout.2 ?_) h7))
    ⟨_, _, lower_goes (Link.grants_succ h8).1, rfl, rfl⟩
  all_goals
    simp [cmdlatchEnd, addrlatchEnd, pollEnd, drivePinEnd, State.spend, signal_cmdlatchShadow hc, ha,
      signal_addrlatchShadow hc, signal_setSignal hc, hce, hre]

/-! ### The state after one page read -/

@[simp] theorem pagereadEnd_fault (c : Config) (page : Word) (reads : Nat) (s : State) : (pagereadEnd c page reads s).fault = s.fault := by
  simp [pagereadEnd, latchoutEnd, pollEnd, cmdlatchEnd, addrlatchEnd, State.spend, State.dioAhead, Channel.skip]

@[simp] theorem pagereadEnd_obuf (c : Config) (page : Word) (reads : Nat) (s : State) :
    (pagereadEnd c page reads s).obuf = s.dioAhead c.pageBytes := by
  simp [pagereadEnd, latchoutEnd, pollEnd, cmdlatchEnd, addrlatchEnd, State.spend, State.dioAhead, Channel.skip]

@[simp] theorem pagereadEnd_dioIn (c : Config) (page : Word) (reads : Nat) (s : State) :
    (pagereadEnd c page reads s).env.dioIn = s.env.dioIn.skip Config.freeDioByte c.pageBytes := by
  simp [pagereadEnd, latchoutEnd, pollEnd, cmdlatchEnd, addrlatchEnd, State.spend, State.dioAhead, Channel.skip]

@[simp] theorem pagereadEnd_ctlIn (c : Config) (page : Word) (reads : Nat) (s : State) :
    (pagereadEnd c page reads s).env.ctlIn = s.env.ctlIn.skip Config.freeCtlByte reads := by
  simp [pagereadEnd, latchoutEnd, pollEnd, cmdlatchEnd, addrlatchEnd, State.spend, State.dioAhead, Channel.skip]

@[simp] theorem pagereadEnd_program (c : Config) (page : Word) (reads : Nat) (s : State) :
    (pagereadEnd c page reads s).env.program = s.env.program := by
  simp [pagereadEnd, latchoutEnd, pollEnd, cmdlatchEnd, addrlatchEnd, State.spend]

@[simp] theorem pagereadEnd_responses (c : Config) (page : Word) (reads : Nat) (s : State) :
    (pagereadEnd c page reads s).env.responses = s.env.responses := by
  simp [pagereadEnd, latchoutEnd, pollEnd, cmdlatchEnd, addrlatchEnd, State.spend]

@[simp] theorem pagereadEnd_link (c : Config) (page : Word) (reads : Nat) (s : State) :
    (pagereadEnd c page reads s).env.link = s.env.link.spend (pagereadCalls c reads) := by
  simp only [pagereadCalls, Link.spend_add (5 + 17 + 5 + reads), Link.spend_add (5 + 17 + 5) reads, Link.spend_add (5 + 17) 5,
    Link.spend_add 5 17]
  simp [pagereadEnd, latchoutEnd, pollEnd, cmdlatchEnd, addrlatchEnd, State.spend]

@[simp] theorem pagereadEnd_stream (c : Config) (page : Word) (reads : Nat) (s : State) :
    (pagereadEnd c page reads s).env.stream = s.env.stream := by
  simp [pagereadEnd, latchoutEnd, pollEnd, cmdlatchEnd, addrlatchEnd, State.spend]

/-- The control signals after a page read (R213). -/
theorem signal_pagereadEnd {c : Config} (hc : c.wellFormed = true) (page : Word) (reads : Nat) (s : State) (T : CtlSignal) :
    signal c (pagereadEnd c page reads s).ctlShadow T =
      if T = .cle then false else if T = .nwe then true else if T = .ale then false
      else if T = .nre ∧ c.pageBytes ≠ 0 then true else signal c s.ctlShadow T := by
  obtain ⟨a, as, ha⟩ : ∃ a as, mapCycles (readAddress c page) = a :: as := ⟨_, _, rfl⟩
  by_cases h : c.pageBytes = 0 <;> cases T <;>
    simp [pagereadEnd, latchoutEnd, pollEnd, cmdlatchEnd, addrlatchEnd, State.spend, signal_cmdlatchShadow hc, ha,
      signal_addrlatchShadow hc, signal_setSignal hc, h]

/-! ### DUMP -/

@[simp] theorem dumpEnd_program (c : Config) (i n : Nat) (s : State) :
    (dumpEnd c i n s).env.program = s.env.program := by
  induction n generalizing i s with
  | zero => rfl
  | succ n ih => rw [dumpEnd, ih, State.deliver_env, pagereadEnd_program]

@[simp] theorem dumpEnd_responses (c : Config) (i n : Nat) (s : State) :
    (dumpEnd c i n s).env.responses = s.env.responses := by
  induction n generalizing i s with
  | zero => rfl
  | succ n ih => rw [dumpEnd, ih, State.deliver_env, pagereadEnd_responses]

/-- DUMP's loop of n pages from page index i on, each ready at its first read (R215). -/
theorem dumpSteps_leads {c : Config} (hc : c.wellFormed = true) {n i : Nat} {loc : Locals} {s : State}
    (hf : s.fault = none) (hce : signal c s.ctlShadow .nce = false) (hre : signal c s.ctlShadow .nre = true)
    (hg : s.env.link.grants (n * pagereadCalls c 1) = true)
    (hr : (s.ctlAhead n).map (ready c) = List.replicate n true) (h0 : loc.polls = 0) :
    Leads c (dumpSteps c i n) loc s loc (dumpEnd c i n s) := by
  induction n generalizing i s with
  | zero => exact ⟨rfl, rfl⟩
  | succ n ih =>
    rw [Nat.succ_mul, Nat.add_comm] at hg
    obtain ⟨hg1, hg2⟩ := Link.grants_split hg
    rw [show n + 1 = 1 + n from Nat.add_comm n 1] at hr
    simp only [State.ctlAhead, Channel.ahead_add, List.map_append] at hr
    rw [List.replicate_add] at hr
    obtain ⟨hr1, hr2⟩ := List.append_inj hr (by simp)
    refine Leads.append (pagereadSteps_leads hc hf hce hre hg1 hr1 h0) ⟨_, _, rfl, ih (i := i + 1) ?_ ?_ ?_ ?_ ?_⟩
    · simpa using hf
    · rw [State.deliver_ctlShadow, signal_pagereadEnd hc]; simpa using hce
    · rw [State.deliver_ctlShadow, signal_pagereadEnd hc]; by_cases h : c.pageBytes = 0 <;> simp [h, hre]
    · simpa using hg2
    · rw [State.ctlAhead, State.deliver_env, pagereadEnd_ctlIn]; exact hr2

/-- What DUMP's loop hands to the host: every byte the device answers, in order (R215, R216). -/
theorem dumpEnd_stream (c : Config) (i n : Nat) (s : State) :
    (dumpEnd c i n s).env.stream = s.env.stream ++ s.dioAhead (n * c.pageBytes) := by
  induction n generalizing i s with
  | zero => simp [dumpEnd, State.dioAhead, Channel.ahead]
  | succ n ih =>
    rw [dumpEnd, ih, show (n + 1) * c.pageBytes = c.pageBytes + n * c.pageBytes by rw [Nat.succ_mul, Nat.add_comm]]
    simp [State.dioAhead, Channel.ahead_add]

end Sys2Proof.Machine
end

