-- ==== Sys2Proof/Laws/Turn.lean ====
section
/-! SUPPORT. Every turn the machine can take (10_state.md R50, R52), case by case, and the step and the single advance by turns. -/

namespace Sys2Proof.Machine

/-- An operation in progress goes on (R50). -/
theorem turn_run {c : Config} {s : State} {op : Instr} {k : Nat} {loc : Locals} (h : s.seq = .run op k loc) :
    turn c s = .go op k loc s := by
  simp [turn, h]

/-- Idle, and a legal descriptor (R52, R120). -/
theorem turn_issue {c : Config} {s : State} {W : Descriptor} {rest : List Descriptor} {i : Instr} (h : s.seq = .idle)
    (hp : s.env.program = W :: rest) (hd : decode c W = .ok i) :
    turn c s = .issue i { s with env := { s.env with program := rest } } := by
  simp [turn, h, takeDescriptor, hp, hd]

/-- Idle, and an illegal descriptor (R121). -/
theorem turn_illegal {c : Config} {s : State} {W : Descriptor} {rest : List Descriptor} {e : DecodeError}
    (h : s.seq = .idle) (hp : s.env.program = W :: rest) (hd : decode c W = .error e) :
    turn c s = .illegal e { s with env := { s.env with program := rest } } := by
  simp [turn, h, takeDescriptor, hp, hd]

/-- Idle, and nothing to issue (R307). -/
theorem turn_wait {c : Config} {s : State} (h : s.seq = .idle) (hp : s.env.program = []) : turn c s = .wait s := by
  simp [turn, h, takeDescriptor, hp]

/-- A step in which the reset input is applied (R282). -/
theorem stepWith_reset {c : Config} {s : State} {n : Nat} (h : resetDue s = some n) :
    stepWith c s = .next (resetAfter c n s.afterSampling) := by
  simp [stepWith, h]

@[simp] theorem advances_zero (c : Config) (s : State) : advances c 0 s = s := rfl

theorem advances_succ (c : Config) (n : Nat) (s : State) : advances c (n + 1) s = advances c n (advance c s) := rfl

/-- Advances in sequence. -/
theorem advances_add (c : Config) (m n : Nat) (s : State) : advances c (m + n) s = advances c n (advances c m s) := by
  induction m generalizing s with
  | zero => rw [Nat.zero_add, advances_zero]
  | succ m ih => rw [Nat.succ_add, advances_succ, ih, advances_succ]

/-- At a Run position an advance is one micro-step (R50). -/
theorem advance_run {c : Config} {s : State} {op : Instr} {k : Nat} {loc : Locals} (h : s.seq = .run op k loc) :
    advance c s = microStep c s := by
  simp [advance, turn_run h]

/-- A micro-step that leads on (R50). -/
theorem microStep_go {c : Config} {s s' : State} {op : Instr} {k : Nat} {loc loc' : Locals} {m : Micro}
    (h : s.seq = .run op k loc) (hm : (microProgram c op)[k]? = some m) (he : microEffect c loc s m = .go loc' s') :
    microStep c s = s'.park op (k + 1) loc' := by
  simp [microStep, h, hm, he]

end Sys2Proof.Machine
end

