-- ==== Sys2Proof/Tests/Slice0.lean ====
section
/-! SUPPORT. The model's own tests, each expected result taken from 95_test_vectors.md (its row named in the docstring) or from the
rule named there. -/

namespace Sys2Proof.Tests

open Sys2Proof.Machine

/-! ### Helpers -/

/-- A state in Idle with control shadow and latch v, and a device that answers these bytes. -/
def lab (v : Byte) (io ctl : List Byte) : State :=
  { State.reset with
    ctlShadow := v
    ctlLatch := some v
    env := { Env.quiet with dioIn := ⟨io, 0⟩, ctlIn := ⟨ctl, 0⟩ } }

/-- The same state with a transport that answers so. -/
def wired (answers : List Bool) (s : State) : State := { s with env := { s.env with link := .answers answers 0 } }

/-- The same state with descriptors to issue. -/
def hosted (program : List Descriptor) (s : State) : State := { s with env := { s.env with program := program } }

/-- The same state with descriptors to issue and a reset due in the coming step. -/
def cutting (n : Nat) (program : List Descriptor) (s : State) : State :=
  { hosted program s with env := { (hosted program s).env with resetIn := [some n] } }

/-- What a state shows of the last operation: status, data, events. -/
def shown (s : State) : Status × List Byte × List Event := (s.resp.status, s.resp.data, s.hist)

/-- What one step leaves, seen through f; none if there is no next state. -/
def seen {α : Type} (f : State → α) : Host.Outcome State Fault Refusal → Option α
  | .next s => some (f s)
  | .fault _ => none
  | .refused _ => none

/-- A short configuration for the macros: a page of two bytes, two pages, an arbitrary signature (P1, P6). -/
def small : Config :=
  { Config.standard with pageBytes := 2, nPages := 2, idExpected := #v[0x11, 0x22, 0x33, 0x44, 0x55] }

/-! ### WellFormed and Config.wellFormed refuse what they should -/

/-- R107, R109: six address bytes fit no descriptor. -/
theorem test_wellFormed_refuses_six_bytes :
    WellFormed Config.standard (.addrlatch [0, 0, 0, 0, 0, 0]) = false ∧
      WellFormed Config.standard (.addrlatch [0, 0, 0, 0, 0]) = true := by decide

/-- R20, R121 (e): no macro without `HAS_FLASH_MACROS`. -/
theorem test_wellFormed_refuses_macros :
    ∀ i ∈ [Instr.identify, .pageread 0, .dump, .erase 0, .program],
      WellFormed { Config.standard with hasFlashMacros := false } i = false ∧ i.isMacro = true := by decide

/-- R13: two signals at one pin. -/
theorem test_config_refuses_shared_pin :
    Config.wellFormed { Config.standard with pin := fun _ => 0 } = false := by decide

/-- R16: a poll limit of zero. -/
theorem test_config_refuses_limit_zero : Config.wellFormed { Config.standard with pollLimit := some 0 } = false := by
  decide

/-! ### Decoding: words written out from section 2.1 -/

theorem test_decode_setpin :
    decode Config.standard 0x110000000000000F = .ok (.setpin .io 7 true) ∧
      decode Config.standard 0x1100000000000014 = .ok (.setpin .ctl 2 false) ∧
      decode Config.standard 0x110000000000001D = .ok (.setpin .ctl 6 true) := by decide

theorem test_decode_flush :
    decode Config.standard 0x1200000000000000 = .ok (.flush .io) ∧
      decode Config.standard 0x1200000000000001 = .ok (.flush .ctl) := by decide

theorem test_decode_read :
    decode Config.standard 0x1300000000000000 = .ok (.read .io) ∧
      decode Config.standard 0x1300000000000001 = .ok (.read .ctl) := by decide

theorem test_decode_setdir :
    decode Config.standard 0x1400000000000000 = .ok (.setdir .input) ∧
      decode Config.standard 0x1400000000000001 = .ok (.setdir .output) := by decide

theorem test_decode_cmdlatch : decode Config.standard 0x21000000000000D0 = .ok (.cmdlatch 0xD0) := by decide

theorem test_decode_addrlatch :
    decode Config.standard 0x2200000000000000 = .ok (.addrlatch []) ∧
      decode Config.standard 0x2200030000030201 = .ok (.addrlatch [1, 2, 3]) ∧
      decode Config.standard 0x2200050504030201 = .ok (.addrlatch [1, 2, 3, 4, 5]) := by decide

theorem test_decode_latchout : decode Config.standard 0x23000000FFFFFFFF = .ok (.latchout 4294967295) := by decide

theorem test_decode_busypoll : decode Config.standard 0x2400000000000000 = .ok .busypoll := by decide

theorem test_decode_map : decode Config.standard 0x4100000012345678 = .ok (.map 0x12345678) := by decide

theorem test_decode_identify : decode Config.standard 0x5100000000000000 = .ok .identify := by decide

theorem test_decode_pageread : decode Config.standard 0x520000000003FFFF = .ok (.pageread 262143) := by decide

theorem test_decode_dump : decode Config.standard 0x5300000000000000 = .ok .dump := by decide

theorem test_decode_erase : decode Config.standard 0x5400000000000FFF = .ok (.erase 4095) := by decide

theorem test_decode_program : decode Config.standard 0x5500000000000000 = .ok .program := by decide

/-- Section 2.2, R121 (a): codes that are not assigned. -/
theorem test_decode_unassigned :
    ∀ op ∈ [0x00#8, 0xFF, 0x10, 0x15, 0x20, 0x25, 0x30, 0x40, 0x42, 0x50, 0x56, 0x90],
      decode Config.standard (op ++ 0#56) = .error (.unassignedOp op) := by decide

/-- Section 2.2, R121 (b): a reserved bit set. -/
theorem test_decode_reserved :
    decode Config.standard 0x1100000000000020 = .error (.reservedBits 0x11) ∧
      decode Config.standard 0x1200000000000002 = .error (.reservedBits 0x12) ∧
      decode Config.standard 0x1400000000000002 = .error (.reservedBits 0x14) ∧
      decode Config.standard 0x2100000000000100 = .error (.reservedBits 0x21) ∧
      decode Config.standard 0x2200080000000000 = .error (.reservedBits 0x22) ∧
      decode Config.standard 0x2300000100000000 = .error (.reservedBits 0x23) ∧
      decode Config.standard 0x2400000000000001 = .error (.reservedBits 0x24) ∧
      decode Config.standard 0x4100000100000000 = .error (.reservedBits 0x41) ∧
      decode Config.standard 0x5100000000000001 = .error (.reservedBits 0x51) ∧
      decode Config.standard 0x5500000000000001 = .error (.reservedBits 0x55) := by decide

/-- Section 2.2, R121 (c), (d): the count and the bytes beyond it. -/
theorem test_decode_addresses :
    decode Config.standard 0x2200060000000000 = .error (.addressCount 6) ∧
      decode Config.standard 0x2200070000000000 = .error (.addressCount 7) ∧
      decode Config.standard 0x2200000000000001 = .error (.addressBeyondCount 0) ∧
      decode Config.standard 0x2200010000000100 = .error (.addressBeyondCount 1) ∧
      decode Config.standard 0x2200030100030201 = .error (.addressBeyondCount 3) := by decide

/-- Section 2.2, R121 (e): the five macros, without `HAS_FLASH_MACROS`. -/
theorem test_decode_macros_absent :
    ∀ op ∈ [0x51#8, 0x52, 0x53, 0x54, 0x55],
      decode { Config.standard with hasFlashMacros := false } (op ++ 0#56) = .error (.macrosAbsent op) := by decide

/-- The table's bits, a row of each kind of operand. -/
theorem test_decodeTableWord :
    decodeTableWord 64 0x2100000000000090 = some (.cmdlatch 0x90) ∧
      decodeTableWord 64 0x2200060000000000 = none := by decide

/-! ### Family BP (section 2.3) -/

/-- B1 and B3. -/
theorem test_setpin :
    seen (fun s => (s.ctlShadow, shown s)) (exec (.setpin .ctl 3 true) State.reset) = some (0x08, .ok, [], []) ∧
      seen (fun s => s.ctlShadow) (exec (.setpin .ctl 6 true) State.reset) = some 0x40 := by decide

/-- B5. -/
theorem test_setpin_clears :
    seen (fun s => s.ioShadow) (exec (.setpin .io 0 false) { State.reset with ioShadow := 0xFF }) = some 0xFE := by
  decide

/-- B6. -/
theorem test_flush :
    seen (fun s => (s.ctlLatch, shown s)) (exec (.flush .ctl) State.reset) =
      some (some 0x00, .ok, [], [.wrCtl 0x00]) := by decide

/-- B15. -/
theorem test_flush_fails :
    seen (fun s => (s.ctlShadow, shown s)) (exec (.flush .ctl) (wired [false] (lab 0x18 [] []))) =
        some (0x18, .transport, [], [.tfail (.write .ctl)]) ∧
      seen (fun s => (s.fault, s.ctlLatch)) (exec (.flush .ctl) (wired [false] (lab 0x18 [] []))) =
        some (some .transport, none) := by decide

/-- B9: the byte read is the answer, and the shadow keeps its value. -/
theorem test_read :
    seen (fun s => (s.ctlShadow, shown s)) (exec (.read .ctl) (lab 0x18 [] [0x58])) =
      some (0x18, .ok, [0x58], [.rdCtl 0x58]) := by decide

/-- B12. -/
theorem test_setdir :
    seen (fun s => (s.ioDir, shown s)) (exec (.setdir .input) (lab 0x18 [] [])) =
      some (.input, .ok, [], [.cfgIo .input]) := by decide

/-! ### Family PE (sections 2.5, 2.6) -/

/-- E2: CLE and nWE already at their levels. -/
theorem test_cmdlatch :
    seen shown (exec (.cmdlatch 0xAB) (lab 0x11 [] [])) =
      some (.ok, [], [.wrCtl 0x11, .wrCtl 0x11, .wrIo 0xAB, .wrCtl 0x19, .wrCtl 0x18]) := by decide

/-- X2: the third call fails. -/
theorem test_cmdlatch_fails :
    seen shown (exec (.cmdlatch 0x90) (wired [true, true, false] (lab 0x18 [] []))) =
        some (.transport, [], [.wrCtl 0x19, .wrCtl 0x11, .tfail (.write .io)]) ∧
      seen (fun s => (s.ctlLatch, s.ioShadow, s.ioLatch))
          (exec (.cmdlatch 0x90) (wired [true, true, false] (lab 0x18 [] []))) = some (some 0x11, 0x90, none) := by decide

/-- E11. -/
theorem test_addrlatch :
    seen shown (exec (.addrlatch [0x55]) (lab 0x12 [] [])) =
      some (.ok, [], [.wrCtl 0x12, .wrCtl 0x12, .delay .settle, .wrIo 0x55, .delay .setup, .wrCtl 0x1A, .delay .whold,
        .wrCtl 0x18]) := by decide

/-- E8: no byte. -/
theorem test_addrlatch_empty :
    seen shown (exec (.addrlatch []) (lab 0x18 [] [])) = some (.ok, [], [.wrCtl 0x1A, .wrCtl 0x18]) := by decide

/-- E15. -/
theorem test_latchout :
    seen (fun s => (s.ioDir, shown s)) (exec (.latchout 2) (lab 0x18 [0xAA, 0x55] [])) =
      some (.output, .ok, [0xAA, 0x55], [.cfgIo .input, .wrCtl 0x08, .delay .access, .rdIo 0xAA, .wrCtl 0x18,
        .delay .rhold, .wrCtl 0x08, .delay .access, .rdIo 0x55, .wrCtl 0x18, .delay .rhold, .cfgIo .output]) := by
  decide

/-- X3: the fifth call fails; `obuf` keeps the byte, the response carries none. -/
theorem test_latchout_fails :
    seen (fun s => (s.ioDir, s.ctlShadow, s.ctlLatch, s.obuf, s.resp))
        (exec (.latchout 3) (wired [true, true, true, true, false] (lab 0x18 [0x01] []))) =
      some (.input, 0x08, none, [0x01], ⟨.transport, []⟩) := by decide

/-- E23, its second read: every bit but RDY, and the operation reads on. -/
theorem test_busypoll_waits :
    seen (fun s => (s.seq, s.hist)) (exec .busypoll (lab 0x18 [] [0xBF])) =
      some (.run .busypoll 1 ⟨1, [], 0⟩, [.rdCtl 0xBF]) := by decide

/-- X5: the second read of a busy wait fails. -/
theorem test_busypoll_fails :
    let s := { wired [false] (lab 0x18 [] []) with seq := .run .busypoll 1 ⟨1, [], 0⟩, hist := [.rdCtl 0x18] }
    seen (fun t => (t.fault, shown t)) (step s) =
      some (some .transport, .transport, [], [.rdCtl 0x18, .tfail (.read .ctl)]) := by decide

/-- E24: the shadow's RDY bit does not count, the byte read does. -/
theorem test_busypoll_ready :
    seen (fun s => (s.seq, shown s)) (step { lab 0x58 [] [0x40] with seq := .run .busypoll 1 ⟨1, [], 0⟩ }) =
      some (.idle, .ok, [], [.rdCtl 0x40]) := by decide

/-- E27, E28: the third and last allowed read, not ready and ready. -/
theorem test_poll_limit :
    seen shown (resume { Config.standard with pollLimit := some 3 } .busypoll 1 ⟨2, [], 0⟩ (lab 0x18 [] [0x18])) =
        some (.unresponsive, [], [.rdCtl 0x18]) ∧
      seen shown (resume { Config.standard with pollLimit := some 3 } .busypoll 1 ⟨2, [], 0⟩ (lab 0x18 [] [0x58])) =
        some (.ok, [], [.rdCtl 0x58]) := by decide

/-- Section 2.4, the precondition matrix: the control shadows, of the 32, from which each check passes. -/
theorem test_precondition_matrix :
    ((List.range 32).filter fun v => passes Config.standard cmdlatchPre (BitVec.ofNat 8 v)) =
        [0x10, 0x11, 0x12, 0x13, 0x18, 0x19, 0x1A, 0x1B] ∧
      ((List.range 32).filter fun v => passes Config.standard addrlatchPre (BitVec.ofNat 8 v)) =
        [0x10, 0x12, 0x18, 0x1A] ∧
      ((List.range 32).filter fun v => passes Config.standard latchoutPre (BitVec.ofNat 8 v)) =
        [0x08, 0x09, 0x18, 0x19] ∧
      ((List.range 32).filter fun v => passes Config.standard (busypollPre Config.standard) (BitVec.ofNat 8 v)) =
        [0x00, 0x01, 0x02, 0x03, 0x08, 0x09, 0x0A, 0x0B, 0x10, 0x11, 0x12, 0x13, 0x18, 0x19, 0x1A, 0x1B] := by decide

/-! ### Family AM (section 2.7) -/

theorem test_map :
    seen shown (exec (.map 0x12345678) State.reset) = some (.ok, [0x78, 0x06, 0x45, 0x23, 0x01], []) := by decide

theorem test_map_discards :
    seen shown (exec (.map 0xFFFFFFFF) State.reset) = some (.ok, [0xFF, 0x0F, 0xFF, 0xFF, 0x03], []) := by decide

/-! ### Family FO (section 2.8, part 3) -/

/-- P1: the signature read is the one expected; P1b: its last byte is not. -/
theorem test_identify :
    (perform small .identify (lab 0x18 [0x11, 0x22, 0x33, 0x44, 0x55] [])).resp =
        ⟨.ok, [0x11, 0x22, 0x33, 0x44, 0x55]⟩ ∧
      (perform small .identify (lab 0x18 [0x11, 0x22, 0x33, 0x44, 0x56] [])).resp =
        ⟨.idMismatch, [0x11, 0x22, 0x33, 0x44, 0x56]⟩ := by decide

/-- M6: CMDLATCH clears CLE itself, so ADDRLATCH passes; R211: 40 events. -/
theorem test_identify_from_cle_high :
    (perform small .identify (lab 0x19 [] [])).hist.length = 40 := by decide

/-- The page addresses: column past 2048, the carry into the row, the last page, the mapper's and the product's wraps. -/
theorem test_pageread_addresses :
    mapCycles (readAddress Config.standard 1) = [0x40, 0x08, 0x00, 0x00, 0x00] ∧
      mapCycles (readAddress Config.standard 2) = [0x80, 0x00, 0x01, 0x00, 0x00] ∧
      mapCycles (readAddress Config.standard 262143) = [0xC0, 0x07, 0xFF, 0x0F, 0x02] ∧
      mapCycles (readAddress Config.standard 508401) = [0x40, 0x04, 0x00, 0x00, 0x00] ∧
      mapCycles (readAddress Config.standard 2033602) = [0x80, 0x00, 0x00, 0x00, 0x00] ∧
      mapCycles (readAddress Config.standard 4294967295) = [0xC0, 0x07, 0xFF, 0xFF, 0x03] := by decide

/-- PAGEREAD 1 with a page of two bytes: 5 + 32 + 5 + 1 + 12 events, the read-back data, bus OUT. -/
theorem test_pageread :
    let t := perform small (.pageread 1) (lab 0x18 [0xDE, 0xAD] [0x58])
    t.resp = ⟨.ok, [0xDE, 0xAD]⟩ ∧ t.hist.length = 55 ∧ t.ctlShadow = 0x18 ∧ t.ioLatch = some 0x30 ∧
      t.ioDir = .output := by decide

/-- DUMP over two pages (as P6, with a page of two bytes). -/
theorem test_dump :
    (perform small .dump (lab 0x18 [0x00, 0x00, 0x01, 0x01] [0x58, 0x58])).resp = ⟨.ok, [0x00, 0x00, 0x01, 0x01]⟩ := by
  decide

/-- R215, R217 (b): the first page is with the host while the second page's poll waits, and no response is. -/
theorem test_dump_delivers :
    let t := perform small .dump (lab 0x18 [0x07, 0x08] [0x58, 0x18])
    t.env.stream = [0x07, 0x08] ∧ t.env.responses = [] ∧ t.seq ≠ .idle := by decide

/-- DUMP answers with what it has delivered when the second page fails (R226). -/
theorem test_dump_fails :
    (perform small .dump (wired (List.replicate 42 true ++ [false]) (lab 0x18 [0x07, 0x08] [0x58]))).resp =
      ⟨.transport, [0x07, 0x08]⟩ := by decide

/-- The block rows: 3, 4095, the mapper's and the product's wraps. -/
theorem test_erase_rows :
    rowCycles (eraseAddress Config.standard 3) = [0x60, 0x00, 0x00] ∧
      rowCycles (eraseAddress Config.standard 4095) = [0xE0, 0xFF, 0x01] ∧
      rowCycles (eraseAddress Config.standard 8192) = [0x00, 0x00, 0x00] ∧
      rowCycles (eraseAddress Config.standard 4294967295) = [0xE0, 0xFF, 0x03] := by decide

/-- The status decode: bit 0 and no other. -/
theorem test_erase_status :
    [0x00, 0x01, 0x02, 0x40, 0x80, 0xC0, 0xE0, 0xE1, 0xFE, 0xFF].map (fun v => eraseStatus [v]) =
      [.ok, .eraseFail, .ok, .ok, .ok, .ok, .ok, .eraseFail, .ok, .eraseFail] := by decide

/-- T7: the first event raises nWP, the last lowers it; 1 + 5 + 20 + 5 + 1 + 5 + 7 + 1 events. -/
theorem test_erase :
    seen (fun s => (s.resp, s.hist.head?, s.hist.getLast?, s.hist.length)) (exec (.erase 3) (lab 0x18 [0x01] [0x78])) =
      some (⟨.eraseFail, [0x01]⟩, some (.wrCtl 0x38), some (.wrCtl 0x18), 45) := by decide

/-- M4: refused after nWP was raised, which stays high. -/
theorem test_erase_from_reset :
    seen (fun s => (s.ctlLatch, shown s)) (exec (.erase 0) State.reset) =
      some (some 0x20, .precondition, [], [.wrCtl 0x20]) := by decide

/-- M7. -/
theorem test_program : seen shown (exec .program (lab 0x18 [] [])) = some (.notImplemented, [], []) := by decide

/-! ### The machine -/

/-- R241: the codes. -/
theorem test_status_codes :
    [Status.ok, .precondition, .transport, .notImplemented, .illegal, .unresponsive, .idMismatch, .eraseFail].map
      Status.code = [0x00, 0x01, 0x02, 0x03, 0x04, 0x05, 0x10, 0x11] := by decide

/-- R124: the NAND commands. -/
theorem test_commands :
    [cmdReadId, cmdReadSetup, cmdReadConfirm, cmdEraseSetup, cmdEraseConfirm, cmdReadStatus] =
      [0x90, 0x00, 0x30, 0x60, 0xD0, 0x70] := by decide

/-- A step takes the host's next descriptor and answers it; an illegal one is answered ILLEGAL (R121, R123). -/
theorem test_step :
    seen (fun s => (s.resp, s.env.program)) (step (State.reset.withFetchWord 64 0x4100000010000000)) =
        some (⟨.ok, [0, 0, 0, 0, 1]⟩, []) ∧
      seen (fun s => (s.resp, s.env.program)) (step (State.reset.withFetchWord 64 0x5500000000000001)) =
        some (⟨.illegal, []⟩, []) := by decide

/-- R282: a reset in the middle of a poll. -/
theorem test_reset :
    let s := { lab 0x18 [] [] with seq := .run .busypoll 1 ⟨7, [], 0⟩ }
    seen id (step { s with env := { s.env with resetIn := [some 0] } }) = some State.reset := by decide

/-- R282, R298: a LATCHOUT cut with nRE low and the bus in; the state says OUT, what NBPE drives is not known, no response. -/
theorem test_reset_cuts_latchout :
    let s := cutting 4 [encode (.latchout 1)] (lab 0x18 [0xAA] [])
    (advances Config.standard 4 s.afterSampling).hist = [.cfgIo .input, .wrCtl 0x08] ∧
      seen (fun t => (t.ioDir, t.env.lineDir, dioDriven t)) (step s) = some (.output, some .input, none) ∧
      seen (fun t => (t.seq, t.env.responses)) (step s) = some (.idle, []) := by decide

/-- R18: every control pin an output but RDY, at the default pin map; and the mask of a configure call. -/
theorem test_direction_masks :
    ctlDirmask Config.standard = 0xBF ∧ dirMask Config.standard .input = 0x00 ∧
      dirMask Config.standard .output = 0xFF := by decide

/-- R125, section 2.1: assembler text. -/
theorem test_assembly :
    assembly Config.standard (.setpin .ctl 3 true) = "SETPIN CTL, nWE, 1" ∧
      assembly Config.standard (.setdir .input) = "SETDIR IN" ∧
      assembly Config.standard (.latchout 2112) = "LATCHOUT 2112" ∧
      assembly Config.standard .busypoll = "BUSYPOLL" := by decide

/-- Section 2.1: lines and their descriptors; blanks, a comment, a pseudo-operation, and a line that is none. -/
theorem test_assembler :
    assembledWords Config.standard "SETPIN CTL, nWE, 1" = some [0x1100000000000017] ∧
      assembledWords Config.standard " ADDRLATCH 0xC0,0x07, 255, 0x0f, 2 ; five" = some [0x220005020FFF07C0] ∧
      assembledWords Config.standard "RAISE CLE" = some [0x1100000000000011, 0x1200000000000001] ∧
      assembledWords Config.standard "ADDRLATCH" = some [0x2200000000000000] ∧
      assembledWords Config.standard "; nothing" = some [] ∧ assembledWords Config.standard "CMDLATCH 256" = none := by
  decide

/-- R221: the state names of an ERASE, at the ends of its parts. -/
theorem test_erase_positions :
    [2, 8, 29, 35, 36, 51, 52].map (fun k => position (.run (.erase 0) k Locals.start)) =
      [.inErase .wpReleased .idle, .inErase .setupLatched (.unnamed 0), .inErase .addressLatched .idle,
        .inErase .confirmLatched (.unnamed 0), .inErase .busy (.unnamed 1), .inErase .statusRead (.unnamed 51),
        .inErase .wpRestored (.unnamed 52)] := by decide

/-- T4: the chip latches the command byte on the rising edge of nWE, and no read strobe is seen; what the first write did is not
known (log entry 9). -/
theorem test_chip_view :
    chipView Config.standard (some .output) [.wrCtl 0x18, .wrCtl 0x19, .wrCtl 0x11, .wrIo 0x90, .wrCtl 0x19, .wrCtl 0x18] =
      ⟨some 0x18, some 0x90, some .output, [.unspecified, .command (some 0x90)], 0⟩ := by decide

/-- R144, U6: after a configure call that fails, what NBPE drives on the I/O lines is not known. -/
theorem test_setdir_fails :
    seen (fun t => (t.ioDir, dioDriven t, dioLevel t 0)) (exec (.setdir .input) (wired [false] { lab 0x18 [] [] with
      ioLatch := some 0xFF })) = some (.output, none, none) := by decide

/-- R176: the transport calls of the events of E9. -/
theorem test_transport_calls :
    transportCalls [.wrCtl 0x1A, .wrCtl 0x12, .delay .settle, .wrIo 0x00, .delay .setup, .wrCtl 0x1A, .delay .whold,
      .wrCtl 0x18] = 5 := by decide

/-! ### Witnesses: for each statement with hypotheses, a state and operands that meet them all together -/

/-- The state after INIT (S1), with a device that answers these bytes. -/
def boot (io ctl : List Byte) : State := { lab 0x18 io ctl with hist := [.wrCtl 0x18] }

theorem boot_launchReady (io ctl : List Byte) : LaunchReady Config.standard (boot io ctl) := by
  have h : ∀ S, signal Config.standard (boot io ctl).ctlShadow S = signal Config.standard 0x18 S := fun _ => rfl
  unfold LaunchReady
  simp only [h]
  exact ⟨rfl, rfl, rfl, by decide, by decide, by decide, by decide, by decide, rfl⟩

theorem boot_tracks (io ctl : List Byte) : Tracks Config.standard (some .output) (boot io ctl) := by
  refine ⟨rfl, rfl, rfl, rfl, ?_⟩
  simp [boot, lab, State.reset]

theorem boot_histOk (io ctl : List Byte) : HistOk Config.standard (boot io ctl) := ⟨_, boot_tracks io ctl⟩

theorem boot_grants (io ctl : List Byte) (n : Nat) : (boot io ctl).env.link.grants n = true :=
  Link.grants_directPin n

/-- For `ResetAppliedAtAnyTime`, at once and after three micro-steps. -/
theorem witness_ResetAppliedAtAnyTime :
    resetDue { State.reset with env := { Env.quiet with resetIn := [some 0] } } = some 0 ∧
      resetDue { State.reset with env := { Env.quiet with resetIn := [some 3] } } = some 3 := by decide

/-- For `ResetCutsSequence`: before the first event and after the last of each of the three sequences (and inside LATCHOUT's loop);
the rest by `witness_Completes`. -/
theorem witness_ResetCutsSequence :
    (∀ n, resetDue (cutting (n + 2) [encode (.cmdlatch 0x90)] (boot [] [])) = some (n + 2)) ∧
      (cutting 7 [encode (.cmdlatch 0x90)] (boot [] [])).env.program = encode (.cmdlatch 0x90) :: [] ∧
      0 ≤ (cmdlatchEvents Config.standard 0x18 0x90).length ∧ 5 ≤ (cmdlatchEvents Config.standard 0x18 0x90).length ∧
      [0x12, 0x34].length ≤ 5 ∧ (cutting 16 [encode (.addrlatch [0x12, 0x34])] (boot [] [])).env.program =
        encode (.addrlatch [0x12, 0x34]) :: [] ∧
      14 ≤ (addrlatchEvents Config.standard 0x18 [0x12, 0x34]).length ∧
      (cutting 9 [encode (.latchout 1)] (boot [0xAA] [])).env.program = encode (.latchout 1) :: [] ∧
      7 ≤ (latchoutEvents Config.standard 0x18 [0xAA]).length ∧ 0 < 6 ∧ 6 ≤ 1 + 5 * (1#32).toNat ∧
      (cutting 9 [encode (.latchout 1)] (boot [0xAA] [])).dioAhead 1 = [0xAA] :=
  ⟨fun _ => rfl, by decide⟩

/-- For `BootSequenceReachesLaunch`. -/
theorem witness_BootSequenceReachesLaunch : Env.quiet.link.grants 1 = true := by decide

/-- For `StepRunsDecodedOperation`. -/
theorem witness_StepRunsDecodedOperation :
    resetDue (hosted [0x5500000000000000] (boot [] [])) = none ∧
      (hosted [0x5500000000000000] (boot [] [])).seq = .idle ∧
      (hosted [0x5500000000000000] (boot [] [])).env.program = [0x5500000000000000] ∧
      decode Config.standard 0x5500000000000000 = .ok .program := by decide

/-- For `IllegalDescriptorAnswered`. -/
theorem witness_IllegalDescriptorAnswered :
    resetDue (hosted [0] (boot [] [])) = none ∧ (hosted [0] (boot [] [])).seq = .idle ∧
      (hosted [0] (boot [] [])).env.program = [0] ∧ decode Config.standard 0 = .error (.unassignedOp 0) := by decide

/-- For `RunningStepGoesOn`, the last position inside a micro-program and the first past it; for `NoOperationUnlessIdle`. -/
theorem witness_RunningStepGoesOn :
    resetDue { boot [] [] with seq := .run .busypoll 2 Locals.start } = none ∧
      2 < (microProgram Config.standard .busypoll).length ∧ ¬ 3 < (microProgram Config.standard .busypoll).length := by
  decide

/-- For `NoOperationUnlessIdle`. -/
theorem witness_NoOperationUnlessIdle :
    ({ boot [] [] with seq := .run .busypoll 1 Locals.start } : State).seq = .run .busypoll 1 Locals.start := by decide

/-- For `QuiescentMachineWaits`. -/
theorem witness_QuiescentMachineWaits : Quiescent State.reset ∧ resetDue State.reset = none := ⟨⟨rfl, rfl⟩, rfl⟩

/-- For `DecodeOfEncodeIsIdentity`: no address byte, five, and a macro. -/
theorem witness_DecodeOfEncodeIsIdentity :
    WellFormed Config.standard (.addrlatch []) = true ∧ WellFormed Config.standard (.addrlatch [1, 2, 3, 4, 5]) = true ∧
      WellFormed Config.standard .dump = true := by decide

/-- For `EncodeOfDecodeIsIdentity`, and for the second clause of `MatchAndMaskSelect`. -/
theorem witness_EncodeOfDecodeIsIdentity :
    decode Config.standard 0x2200050504030201 = .ok (.addrlatch [1, 2, 3, 4, 5]) := by decide

/-- For the first clause of `MatchAndMaskSelect`, both sides of it. -/
theorem witness_MatchAndMaskSelect :
    (∀ bytes, Instr.busypoll ≠ .addrlatch bytes) ∧
      0x2400000000000000#64 &&& maskWord .busypoll = matchWord .busypoll ∧
      0x2400000000000001#64 &&& maskWord .busypoll ≠ matchWord .busypoll := by
  refine ⟨fun _ h => ?_, by decide, by decide⟩
  cases h

/-- For `SetpinAnswers`, `MapAnswers` and `ProgramAnswers`: in Idle, the fault set or not. -/
theorem witness_Idle :
    (boot [] []).seq = .idle ∧ ({ boot [] [] with fault := some .transport } : State).seq = .idle := by decide

/-- For `FlushAnswers`, `ReadAnswers` and `SetdirAnswers`: the fault set, the call accepted (with the bus turned in), the call
refused. -/
theorem witness_FlushAnswers :
    ({ boot [] [] with fault := some .transport } : State).fault ≠ none ∧
      ((boot [] []).fault = none ∧ (boot [] []).env.link.ask.1 = true) ∧
      ({ boot [] [] with ioDir := .input } : State).ioDir = .input ∧
      (boot [] []).ctlLatch = some (boot [] []).ctlShadow ∧
      ((wired [false] (boot [] [])).fault = none ∧ (wired [false] (boot [] [])).env.link.ask.1 = false) := by decide

/-- For `CmdlatchCompletes`, `AddrlatchCompletes` (no byte and five), `LatchoutCompletes` (none and some), `IdentifyCompletes`,
`CmdlatchFromPrimitives`, and the `grants` of every other completion. -/
theorem witness_Completes (n : Nat) :
    (boot [] []).seq = .idle ∧ (boot [] []).fault = none ∧
      signal Config.standard (boot [] []).ctlShadow .nce = false ∧
      signal Config.standard (boot [] []).ctlShadow .cle = false ∧
      signal Config.standard (boot [] []).ctlShadow .ale = false ∧
      signal Config.standard (boot [] []).ctlShadow .nre = true ∧
      signal Config.standard (boot [] []).ctlShadow .nwe = true ∧ (boot [] []).env.link.grants n = true :=
  ⟨rfl, rfl, rfl, rfl, rfl, rfl, rfl, boot_grants _ _ n⟩

/-- For `LatchoutCompletes`: a read cycle there is. -/
theorem witness_LatchoutCompletes : 0 < (1#32).toNat := by decide

/-- For `BusypollCompletesWhenReady`, `PagereadCompletes`, `EraseCompletes`, `PagereadSeenByChip` and `EraseSeenByChip`: a first read
that is ready (the rest by `witness_Completes`). -/
theorem witness_BusypollCompletesWhenReady :
    (boot [] [0x40]).seq = .idle ∧ (boot [] [0x40]).fault = none ∧
      signal Config.standard (boot [] [0x40]).ctlShadow .nce = false ∧
      signal Config.standard (boot [] [0x40]).ctlShadow .nre = true ∧
      (boot [] [0x40]).env.link.grants 1 = true ∧
      ((boot [] [0x40]).ctlAhead 1).map (ready Config.standard) = [true] := by decide

theorem witness_PagereadCompletes :
    (boot [] [0x40]).env.link.grants (pagereadCalls Config.standard 1) = true ∧
      (boot [] [0x40]).env.link.grants (eraseCalls 1) = true :=
  ⟨boot_grants _ _ _, boot_grants _ _ _⟩

/-- A state from which a macro waits: two reads not ready, then one that is. -/
def waiting (i : Instr) : State := hosted [encode i] (boot [] [0x18, 0xBF, 0x40])

/-- For the second clauses of `PagereadCompletes`, `EraseCompletes`, `PagereadSeenByChip` and `EraseSeenByChip`: two reads not
ready, and none (the rest by `boot_launchReady`, `boot_tracks` and `witness_Completes`). -/
theorem witness_MacroWaits (i : Instr) (n : Nat) :
    (waiting i).env.resetIn = [] ∧ (waiting i).env.program = encode i :: [] ∧ (waiting i).env.link.grants n = true ∧
      (waiting i).seq = .idle ∧ (waiting i).fault = none ∧ (waiting i).env.lineDir = some .output ∧
      signal Config.standard (waiting i).ctlShadow .nce = false ∧
      signal Config.standard (waiting i).ctlShadow .nre = true ∧
      ((waiting i).ctlAhead 3).map (ready Config.standard) = List.replicate 2 false ++ [true] ∧
      ((boot [] [0x40]).ctlAhead 1).map (ready Config.standard) = List.replicate 0 false ++ [true] ∧
      LaunchReady Config.standard (waiting i) ∧ Tracks Config.standard (some .output) (waiting i) :=
  ⟨rfl, rfl, Link.grants_directPin n, rfl, rfl, rfl, show signal Config.standard 0x18 .nce = false by decide,
    show signal Config.standard 0x18 .nre = true by decide,
    show ((boot [] [0x18, 0xBF, 0x40]).ctlAhead 3).map (ready Config.standard) = List.replicate 2 false ++ [true] by decide,
    by decide, boot_launchReady [] [0x18, 0xBF, 0x40], boot_tracks [] [0x18, 0xBF, 0x40]⟩

/-- For `BusypollAnswersAtFirstReadyRead`: two reads not ready, and none. -/
theorem witness_BusypollAnswersAtFirstReadyRead :
    (hosted [0x2400000000000000] (boot [] [0x18, 0xBF, 0x40])).env.program = [encode .busypoll] ∧
      (hosted [0x2400000000000000] (boot [] [0x18, 0xBF, 0x40])).env.resetIn = [] ∧
      (hosted [0x2400000000000000] (boot [] [0x18, 0xBF, 0x40])).env.link.grants 3 = true ∧
      ((hosted [0x2400000000000000] (boot [] [0x18, 0xBF, 0x40])).ctlAhead 3).map (ready Config.standard) =
        List.replicate 2 false ++ [true] ∧
      ((boot [] [0x40]).ctlAhead 1).map (ready Config.standard) = List.replicate 0 false ++ [true] := by decide

/-- For `BusypollNeverAnswersUnready`. -/
theorem witness_BusypollNeverAnswersUnready :
    let s := { boot [] [0x18, 0x18] with seq := .run .busypoll 1 ⟨5, [], 0⟩ }
    s.seq = .run .busypoll 1 ⟨5, [], 0⟩ ∧ s.env.resetIn = [] ∧ s.env.link.grants 2 = true ∧
      (s.ctlAhead 2).map (ready Config.standard) = List.replicate 2 false := by decide

/-- For `PollLimitGivesUp`: the limits 1 and 3, with the nCE check and without it. -/
theorem witness_PollLimitGivesUp :
    let c := { Config.standard with pollLimit := some 3 }
    let c1 := { Config.standard with pollLimit := some 1, busypollNceCheck := false }
    let s := hosted [encode .busypoll] (boot [] [0x18, 0x18, 0x18])
    c.pollLimit = some 3 ∧ c1.pollLimit = some 1 ∧ s.seq = .idle ∧ s.fault = none ∧
      (c.busypollNceCheck = true → signal c s.ctlShadow .nce = false) ∧
      (c1.busypollNceCheck = true → signal c1 s.ctlShadow .nce = false) ∧ s.env.resetIn = [] ∧
      s.env.program = encode .busypoll :: [] ∧ s.env.link.grants 3 = true ∧
      (s.ctlAhead 3).map (ready c) = List.replicate 3 false ∧
      (s.ctlAhead 1).map (ready c1) = List.replicate 1 false := by decide

/-- For `PreconditionRefuses` and `EraseRefusedLeavesNwpHigh`: each listed signal wrong in its turn. -/
theorem witness_PreconditionRefuses :
    signal Config.standard (lab 0x1C [] []).ctlShadow .nce = true ∧
      signal Config.standard (lab 0x08 [] []).ctlShadow .nre = false ∧
      signal Config.standard (lab 0x19 [] []).ctlShadow .cle = true ∧
      signal Config.standard (lab 0x10 [] []).ctlShadow .nwe = false ∧
      signal Config.standard (lab 0x1A [] []).ctlShadow .ale = true ∧ (lab 0x1C [] []).fault = none ∧
      (lab 0x1C [] []).seq = .idle ∧ (lab 0x1C [] []).env.link.grants 1 = true := by decide

/-- For `PreconditionTable` and `StatusesPossible`: an operation that ends, refused and not refused, and one that ends after a
wait. -/
theorem witness_PreconditionTable :
    Config.standard.wellFormed = true ∧ (lab 0x1C [] []).fault = none ∧
      (perform Config.standard (.cmdlatch 0x90) (lab 0x1C [] [])).seq = .idle ∧
      (perform Config.standard (.cmdlatch 0x90) (lab 0x18 [] [])).seq = .idle ∧
      (perform Config.standard .busypoll (lab 0x18 [] [0x40])).seq = .idle ∧
      (perform small .dump (lab 0x1C [] [])).seq = .idle ∧
      (perform Config.standard (.erase 0) (lab 0x1C [] [])).seq = .idle ∧
      seen (fun t => (t.seq, t.resp.status)) (resume { Config.standard with pollLimit := some 3 } .busypoll 1 ⟨2, [], 0⟩
        (lab 0x18 [] [0x18])) = some (.idle, .unresponsive) := by decide

/-- For `StickyFaultRefuses`. -/
theorem witness_StickyFaultRefuses :
    let s := { boot [] [] with fault := some .transport }
    s.seq = .idle ∧ s.fault = some .transport ∧ touchesHardware .dump = true := by decide

/-- For `TransportFailureStops`: a next state with the fault, from a state without it, after a write that failed, and in a step that
continues an operation (X5). -/
theorem witness_TransportFailureStops :
    (wired [false] (boot [] [])).fault = none ∧
      seen (fun t => (t.fault, t.seq, t.resp.status, t.hist.getLast?)) (exec (.cmdlatch 0x90) (wired [false] (boot [] []))) =
        some (some .transport, .idle, .transport, some (.tfail (.write .ctl))) ∧
      seen (fun t => (t.fault, t.seq, t.resp.status, t.hist.getLast?))
          (resume Config.standard .busypoll 1 ⟨1, [], 0⟩ (wired [false] (boot [] []))) =
        some (some .transport, .idle, .transport, some (.tfail (.read .ctl))) := by decide

/-- For `MapInverse`, `PagereadAddressSent` and `EraseRowSent`: the largest operands of their ranges. -/
theorem witness_MapInverse :
    (0x3FFFFFFF#32).toNat < 2 ^ 30 ∧ (262143#32).toNat < Config.standard.nPages ∧
      (4095#32).toNat < Config.standard.totalBlocks := by decide

/-- For `IdentifyIsItsExpansion`: a first step that fails, a second step that fails, and three that do not. -/
theorem witness_IdentifyIsItsExpansion :
    seen (fun t => t.resp.status) (exec (.cmdlatch 0x90) (lab 0x1C [] [])) = some .precondition ∧
      seen (fun t => t.resp.status) (exec (.cmdlatch 0x90) (wired (List.replicate 5 true ++ [false]) (boot [] []))) =
        some .ok ∧
      seen (fun t => t.resp.status) (exec (.addrlatch [0x00]) (wired [false] (boot [] []))) = some .transport ∧
      seen (fun t => t.resp.status) (exec (.addrlatch [0x00]) (boot [] [])) = some .ok ∧
      seen (fun t => t.resp.status) (exec (.latchout 5) (boot [] [])) = some .ok := by decide

/-! A whole DUMP: a device that is always ready and answers page i with the byte i mod 256 (T8). -/

/-- The bytes of n pages from page index i on, each page i filled with i mod 256 (T8). -/
def pages (bytes i : Nat) : Nat → List Byte
  | 0 => []
  | n + 1 => List.replicate bytes (BitVec.ofNat 8 i) ++ pages bytes (i + 1) n

theorem pages_length (bytes i n : Nat) : (pages bytes i n).length = n * bytes := by
  induction n generalizing i with
  | zero => simp [pages]
  | succ n ih => simp [pages, ih, Nat.succ_mul, Nat.add_comm]

theorem pages_get {bytes i n k j : Nat} (hk : k < n) (hj : j < bytes) :
    (pages bytes i n)[k * bytes + j]? = some (BitVec.ofNat 8 (i + k)) := by
  induction n generalizing i k with
  | zero => omega
  | succ n ih =>
    cases k with
    | zero =>
      rw [pages, List.getElem?_append_left (by simpa using hj)]
      simp [hj]
    | succ k =>
      rw [pages, List.getElem?_append_right (by simp [Nat.succ_mul]; omega)]
      rw [List.length_replicate, show (k + 1) * bytes + j - bytes = k * bytes + j by rw [Nat.succ_mul]; omega,
        ih (by omega), show i + 1 + k = i + (k + 1) by omega]

/-- A state T8 can start from, the device's bytes left open. -/
def dumping (io ctl : List Byte) : State := hosted [encode .dump] (boot io ctl)

/-- 262144 reads of the control bus that are all ready. -/
theorem dumping_ctlAhead (io : List Byte) :
    ((dumping io (List.replicate 262144 0x40)).ctlAhead 262144).map (ready Config.standard) = List.replicate 262144 true := by
  have h := Channel.ahead_script Config.freeCtlByte (List.replicate 262144 0x40) [] 0
  rw [List.length_replicate, List.append_nil] at h
  unfold dumping State.ctlAhead
  rw [show (hosted [encode .dump] (boot io (List.replicate 262144 0x40))).env.ctlIn = ⟨List.replicate 262144 0x40, 0⟩ from rfl,
    h, List.map_replicate]
  rfl

/-- For `DumpStream`: one step from there answers OK. -/
theorem dumping_step {io ctl : List Byte} {n : Nat} (hn : Config.standard.nPages = n)
    (hr : ((dumping io ctl).ctlAhead n).map (ready Config.standard) = List.replicate n true) :
    ∃ t, Sys2Proof.core.run 1 (dumping io ctl) = .next t ∧ t.env.program = [] ∧ t.seq = .idle ∧
      t.env.responses = (dumping io ctl).env.responses ++ [t.resp] ∧ t.resp.status = .ok := by
  have hturn : turn Config.standard (dumping io ctl).afterSampling = .issue .dump (hosted [] (boot io ctl)) :=
    turn_issue rfl rfl rfl
  have hlead : Leads Config.standard (dumpSteps Config.standard 0 n) ⟨0, [], 0⟩ (hosted [] (boot io ctl)) ⟨0, [], 0⟩
      (dumpEnd Config.standard 0 n (hosted [] (boot io ctl))) :=
    dumpSteps_leads standard_wellFormed rfl (show signal Config.standard 0x18 .nce = false by decide)
      (show signal Config.standard 0x18 .nre = true by decide) (Link.grants_directPin _) hr rfl
  have hopen : Leads Config.standard ([.openStream] ++ dumpSteps Config.standard 0 n) Locals.start
      (hosted [] (boot io ctl)) ⟨0, [], 0⟩ (dumpEnd Config.standard 0 n (hosted [] (boot io ctl))) :=
    ⟨⟨0, [], 0⟩, _, rfl, hlead⟩
  have hrun : step (dumping io ctl) = .next ((dumpEnd Config.standard 0 n (hosted [] (boot io ctl))).respond
      ⟨.ok, dumped ⟨0, [], 0⟩ (dumpEnd Config.standard 0 n (hosted [] (boot io ctl)))⟩) := by
    rw [step, show resetDue (dumping io ctl) = none from rfl, hturn]
    show exec .dump _ = _
    rw [exec_idle _ rfl, perform, microProgram, dumpProgram, hn, runMicros_leads hopen, runMicros_answer, response]
  have h1 := dumpEnd_program Config.standard 0 n (hosted [] (boot io ctl))
  have h2 := dumpEnd_responses Config.standard 0 n (hosted [] (boot io ctl))
  generalize dumpEnd Config.standard 0 n (hosted [] (boot io ctl)) = d at hrun h1 h2
  refine ⟨d.respond ⟨.ok, dumped ⟨0, [], 0⟩ d⟩, ?_, h1, rfl, congrArg (· ++ _) h2, rfl⟩
  show (match step (dumping io ctl) with
    | .next s' => Sys2Proof.core.run 0 s'
    | .fault r => .fault r
    | .refused r => .refused r) = _
  rw [hrun]
  rfl

/-- For `DumpCompletes`. -/
theorem witness_DumpCompletes (io : List Byte) :
    let s := dumping io (List.replicate 262144 0x40)
    s.seq = .idle ∧ s.fault = none ∧ signal Config.standard s.ctlShadow .nce = false ∧
      signal Config.standard s.ctlShadow .nre = true ∧
      s.env.link.grants (262144 * pagereadCalls Config.standard 1) = true ∧
      (s.ctlAhead 262144).map (ready Config.standard) = List.replicate 262144 true :=
  ⟨rfl, rfl, show signal Config.standard 0x18 .nce = false by decide,
    show signal Config.standard 0x18 .nre = true by decide, Link.grants_directPin _, dumping_ctlAhead io⟩

/-- For `DumpStream`: one step answers OK, whatever the pages hold. -/
theorem witness_DumpStream (io : List Byte) :
    let s := dumping io (List.replicate 262144 0x40)
    s.seq = .idle ∧ s.fault = none ∧ s.env.resetIn = [] ∧ s.env.program = encode .dump :: [] ∧
      ∃ t, Sys2Proof.core.run 1 s = .next t ∧ t.env.program = [] ∧ t.seq = .idle ∧
        t.env.responses = s.env.responses ++ [t.resp] ∧ t.resp.status = .ok :=
  ⟨rfl, rfl, rfl, rfl, dumping_step (by decide) (dumping_ctlAhead io)⟩

/-- For the second clause of `DumpDeliversEachPage`: i pages that are ready at once, then a page that is not, whatever i; with no
reset to come and with one. (For its third clause: `witness_DumpStream`, and a DUMP that is refused.) -/
theorem witness_DumpDeliversEachPage (i : Nat) :
    let s := boot [] (List.replicate i 0x40 ++ [0x18])
    s.seq = .idle ∧ s.fault = none ∧ signal Config.standard s.ctlShadow .nce = false ∧
      signal Config.standard s.ctlShadow .nre = true ∧ s.env.link.grants (i * pagereadCalls Config.standard 1 + 28) = true ∧
      (s.ctlAhead (i + 1)).map (ready Config.standard) = List.replicate i true ++ [false] ∧
      (cutting 0 [] s).env.resetIn = some 0 :: [] := by
  refine ⟨rfl, rfl, show signal Config.standard 0x18 .nce = false by decide,
    show signal Config.standard 0x18 .nre = true by decide, Link.grants_directPin _, ?_, rfl⟩
  have h := Channel.ahead_script Config.freeCtlByte (List.replicate i 0x40 ++ [0x18]) [] 0
  rw [List.append_nil, List.length_append, List.length_replicate] at h
  unfold State.ctlAhead
  rw [show (boot [] (List.replicate i 0x40 ++ [0x18])).env.ctlIn = ⟨List.replicate i 0x40 ++ [0x18], 0⟩ from rfl]
  refine (congrArg (List.map (ready Config.standard)) h).trans ?_
  rw [List.map_append, List.map_replicate]
  rfl

/-- For `DumpDeliversEachPage`: a DUMP that ends at once, with no page. -/
theorem witness_DumpDeliversEachPage_refused :
    seen (fun t => (t.env.program, t.seq, t.env.responses))
        (step (hosted [encode .dump] { boot [] [] with fault := some .transport })) =
      some ([], .idle, [⟨.transport, []⟩]) := by decide

/-- For `DumpStream`'s last clause: the i-th page is all i mod 256. -/
theorem witness_DumpStream_pages (ctl : List Byte) {n i j : Nat} (hi : i < n) (hj : j < 2112) :
    ((dumping (pages 2112 0 n) ctl).dioAhead (n * 2112))[i * 2112 + j]? = some (BitVec.ofNat 8 i) := by
  have h := Channel.ahead_script Config.freeDioByte (pages 2112 0 n) [] 0
  rw [pages_length, List.append_nil] at h
  unfold dumping State.dioAhead
  rw [show (hosted [encode .dump] (boot (pages 2112 0 n) ctl)).env.dioIn = ⟨pages 2112 0 n, 0⟩ from rfl, h,
    pages_get hi hj, Nat.zero_add]

/-- For `FrameOfComponents` and `FrameOfControlBits`: a next state of a step that begins an operation and of one that continues one,
and a signal the operation may not change. -/
theorem witness_Frame :
    seen (fun t => t.resp.status) (exec (.cmdlatch 0x90) (boot [] [])) = some .ok ∧
      seen (fun t => t.resp.status) (resume Config.standard .busypoll 1 Locals.start (boot [] [0x40])) = some .ok ∧
      CtlSignal.nwp ∉ mayChange Config.standard (.cmdlatch 0x90) ∧ Component.ioDir ∉ mayWrite (.cmdlatch 0x90) := by
  decide

/-- For `HistoryGrowsAndFaultStays`, `OneResponsePerOperation`, `HistoryInvariantKept`: a step without reset, with and without the
fault, and a step with reset. -/
theorem witness_HistoryGrowsAndFaultStays :
    let s := hosted [encode (.flush .ctl)] (boot [] [])
    let f := { s with fault := some .transport }
    resetDue s = none ∧ seen (fun t => t.hist) (step s) = some [.wrCtl 0x18, .wrCtl 0x18] ∧
      seen (fun t => t.hist) (step f) = some [.wrCtl 0x18] ∧
      seen (fun t => t.hist) (step { s with env := { s.env with resetIn := [some 0] } }) = some [] ∧
      seen (fun t => (t.hist, t.env.program)) (step { s with env := { s.env with resetIn := [some 2] } }) = some ([], []) := by
  decide

/-- For `HistoryInvariantKept`. -/
theorem witness_HistoryInvariantKept :
    HistOk Config.standard (boot [] []) ∧ ∃ t, step (boot [] []) = .next t :=
  ⟨boot_histOk [] [], _, rfl⟩

/-- For `SequencerInvariantKept`: Idle, and a state at a busy-poll read. -/
theorem witness_SequencerInvariantKept :
    SeqOk Config.standard (boot [] []) ∧
      SeqOk Config.standard { boot [] [] with seq := .run .busypoll 1 Locals.start } :=
  ⟨trivial, rfl⟩

/-- For `RdyShadowInvisible`: two states that differ in the RDY bit, and a step and a meaning that answer. -/
theorem witness_RdyShadowInvisible :
    let s := { lab 0x18 [] [] with hist := [.wrCtl 0x18] }
    let t := { lab 0x58 [] [] with hist := [.wrCtl 0x58] }
    AlikeButRdy Config.standard s t ∧ s ≠ t ∧ seen (fun u => u.resp.status) (exec (.cmdlatch 0x90) s) = some .ok ∧
      seen (fun u => u.resp.status) (step s) = some .ok :=
  ⟨⟨by decide, by decide, by decide, rfl, rfl, rfl, rfl, rfl, rfl, rfl, rfl⟩, by decide, by decide, by decide⟩

/-- For `MicroStepsRefineStep` and `MicroStepAdvancesByOne`. -/
theorem witness_MicroStepsRefineStep :
    let s := { boot [] [0x40] with seq := .run .busypoll 1 Locals.start }
    s.seq = .run .busypoll 1 Locals.start ∧ 1 < (microProgram Config.standard .busypoll).length ∧
      seen (fun t => t.resp.status) (resume Config.standard .busypoll 1 Locals.start s) = some .ok := by decide

/-- For `PseudoOperationsAreHelpers`: Idle without the fault, the write accepted and the write refused. -/
theorem witness_PseudoOperationsAreHelpers :
    (boot [] []).seq = .idle ∧ (boot [] []).fault = none ∧ (wired [false] (boot [] [])).seq = .idle ∧
      (wired [false] (boot [] [])).fault = none := by decide

/-- For `CmdlatchLatchesCommand`, `AddrlatchLatchesBytes`, `LatchoutStrobesExactly`, `PagereadSeenByChip`, `EraseSeenByChip`. -/
theorem witness_SeenByChip :
    LaunchReady Config.standard (boot [] [0x40]) ∧ Tracks Config.standard (some .output) (boot [] [0x40]) ∧
      (boot [] [0x40]).env.lineDir = some .output ∧
      (boot [] [0x40]).env.link.grants (pagereadCalls Config.standard 1) = true ∧
      (boot [] [0x40]).env.link.grants (eraseCalls 1) = true ∧
      ((boot [] [0x40]).ctlAhead 1).map (ready Config.standard) = [true] :=
  ⟨boot_launchReady _ _, boot_tracks _ _, rfl, boot_grants _ _ _, boot_grants _ _ _, by decide⟩

end Sys2Proof.Tests
end

section
/-! PROOFS. Family BP, SETPIN and FLUSH (40_bus_primitive.md R141, R142): the fields of formats P and B as the decoder reads them,
the pins as the outside sees them, the micro-steps of FLUSH, and the two statements. -/

namespace Sys2Proof

/-! ### Formats P and B (R103, R104) -/

/-- The 55 reserved bits of a format whose one operand is a bit. -/
theorem bit_reserved (op : Byte) (b : Bool) :
    ((op ++ 0#55 ++ BitVec.ofBool b : BitVec 64)).extractLsb' 1 55 = 0#55 :=
  (extract_append_high (op ++ 0#55) (BitVec.ofBool b) (by omega)).trans
    ((extract_append_low op 0#55 (by omega)).trans (extract_all 0#55))

/-- The operand of a format whose one operand is a bit. -/
theorem bit_operand (op : Byte) (b : Bool) : ((op ++ 0#55 ++ BitVec.ofBool b : BitVec 64)).getLsbD 0 = b := by
  rw [BitVec.getLsbD_append, if_pos (by omega)]
  cases b <;> rfl

/-- A word whose reserved bits are 0 is the operation (R120). -/
theorem reservedZero_of_eq {w : Nat} {reserved : BitVec w} (h : reserved = 0#w) (op : Byte) (i : Instr) :
    reservedZero op reserved i = .ok i := if_pos h

theorem decode_encode_setpin (c : Config) (bus : Bus) (pin : PinPos) (on : Bool) :
    decode c (encode (.setpin bus pin on)) = .ok (.setpin bus pin on) := by
  have hop : (encode (.setpin bus pin on)).extractLsb' 56 8 = 0x11#8 := opcode_encode _
  rw [decode, if_pos hop, reservedZero_of_eq (setpin_reserved bus pin on), setpin_bus, setpin_pin, setpin_on]

theorem decode_encode_flush (c : Config) (bus : Bus) : decode c (encode (.flush bus)) = .ok (.flush bus) := by
  have hop : (encode (.flush bus)).extractLsb' 56 8 = 0x12#8 := opcode_encode _
  have hbit : (encode (.flush bus)).getLsbD 0 = bitOfBus bus := bit_operand _ _
  have hres : (encode (.flush bus)).extractLsb' 1 55 = 0#55 := bit_reserved _ _
  rw [decode, hop, if_neg (by decide), if_pos rfl, reservedZero_of_eq hres, hbit, busOfBit_bitOfBus]

end Sys2Proof

namespace Sys2Proof.Machine

/-! ### The pins (R37) -/

/-- NBPE never drives RDY. -/
@[simp] theorem pinLevel_rdy (c : Config) (s : State) : pinLevel c s .rdy = none := rfl

/-- With the bus turned in, NBPE drives no DIO pin. -/
theorem dioLevel_of_input {s : State} (h : s.ioDir = .input) (k : PinPos) : dioLevel s k = none := by
  have hd : dioDriven s ≠ some true := by
    unfold dioDriven
    split <;> simp [h]
  exact if_neg hd

/-- A write of the byte the latch holds makes no edge. -/
@[simp] theorem edge_self (c : Config) (S : CtlSignal) (v : Byte) : edge c S (some v) v = none := by
  cases h : signal c v S <;> simp [edge, h]

/-! ### The check at the start of an operation (R140) -/

/-- R47 knows one cause of a fault. -/
theorem SessionFault.eq_transport {f : Option SessionFault} (h : f ≠ none) : f = some .transport := by
  cases f with
  | none => exact absurd rfl h
  | some cause => cases cause; rfl

/-- With the fault set, an operation that starts with a check answers TRANSPORT and does nothing else. -/
theorem runMicros_check_faulted {c : Config} {op : Instr} {pre : List (CtlSignal × Bool)} {ms : List Micro} {k : Nat}
    {loc : Locals} {s : State} (hop : op ≠ .dump) (hf : s.fault ≠ none) :
    runMicros c op (.check pre :: ms) k loc s = s.respond ⟨.transport, []⟩ := by
  rw [runMicros_stop (check_faulted (SessionFault.eq_transport hf)), errorData_of_ne hop]

/-- With the fault clear and no precondition, the check leads on. -/
theorem runMicros_check_nil {c : Config} {op : Instr} {ms : List Micro} {k : Nat} {loc : Locals} {s : State}
    (hf : s.fault = none) : runMicros c op (.check [] :: ms) k loc s = runMicros c op ms (k + 1) loc s :=
  runMicros_go (check_passes hf rfl)

/-! ### SETPIN (R141) -/

theorem perform_setpin (c : Config) (bus : Bus) (pin : PinPos) (on : Bool) (s : State) :
    perform c (.setpin bus pin on) s = (s.setShadow bus (setBit (s.shadow bus) pin on)).respond ⟨.ok, []⟩ := rfl

/-- Settles O15: the shadow byte is `setBit` of the old one, whose bits `setBit_getLsbD` gives. -/
theorem setpinAnswers : Obligations.SetpinAnswers := by
  intro bus pin on
  refine ⟨decode_encode_setpin _ bus pin on, fun s hidle => ⟨setBit (s.shadow bus) pin on, ?bits, ?run, pinLevel_rdy _ _⟩⟩
  case bits => exact setBit_getLsbD (s.shadow bus) pin on
  case run => rw [exec_idle _ hidle, perform_setpin]

/-! ### FLUSH (R142) -/

theorem flush_goes {c : Config} {bus : Bus} {loc : Locals} {s : State} (h : s.env.link.ask.1 = true) :
    microEffect c loc s (.flush bus) =
      .go loc (((s.setLink s.env.link.ask.2).setLatch bus (some (s.shadow bus))).log (writeEvent bus (s.shadow bus))) := by
  simp [microEffect, flushBus, tWrite_granted h, afterCall]

theorem flush_stops {c : Config} {bus : Bus} {loc : Locals} {s : State} (h : s.env.link.ask.1 = false) :
    microEffect c loc s (.flush bus) =
      .stop .transport loc (((s.setLink s.env.link.ask.2).setLatch bus none).failCall (.write bus)) := by
  simp [microEffect, flushBus, tWrite_failed h, afterCall]

theorem perform_flush_faulted {c : Config} {bus : Bus} {s : State} (hf : s.fault ≠ none) :
    perform c (.flush bus) s = s.respond ⟨.transport, []⟩ :=
  runMicros_check_faulted (by simp) hf

theorem perform_flush_granted {c : Config} {bus : Bus} {s : State} (hf : s.fault = none) (h : s.env.link.ask.1 = true) :
    perform c (.flush bus) s =
      (((s.setLink s.env.link.ask.2).setLatch bus (some (s.shadow bus))).log (writeEvent bus (s.shadow bus))).respond
        ⟨.ok, []⟩ := by
  rw [perform, microProgram, flushProgram, runMicros_check_nil hf, runMicros_go (flush_goes h), runMicros_answer, response]

theorem perform_flush_failed {c : Config} {bus : Bus} {s : State} (hf : s.fault = none) (h : s.env.link.ask.1 = false) :
    perform c (.flush bus) s =
      (((s.setLink s.env.link.ask.2).setLatch bus none).failCall (.write bus)).respond ⟨.transport, []⟩ := by
  rw [perform, microProgram, flushProgram, runMicros_check_nil hf, runMicros_stop (flush_stops h),
    errorData_of_ne (by simp)]

/-- Settles O16: FLUSH is its check and one write, which the transport accepts or refuses. -/
theorem flushAnswers : Obligations.FlushAnswers := by
  intro bus
  refine ⟨decode_encode_flush _ bus, fun s hidle => ?_⟩
  rw [exec_idle _ hidle]
  refine ⟨fun hf => ?faulted, fun hf hok => ?granted, fun hf hbad => ?failed⟩
  case faulted => rw [perform_flush_faulted hf]
  case granted =>
    refine ⟨_, rfl, ?_, pinLevel_rdy _ _, fun hin k => dioLevel_of_input ?_ k, fun heq S => ?_⟩
    · rw [perform_flush_granted hf hok]
      cases bus <;> rfl
    · simpa [perform_flush_granted hf hok] using hin
    · rw [heq, edge_self]
  case failed =>
    rw [perform_flush_failed hf hbad]
    cases bus <;> rfl

end Sys2Proof.Machine
end

section
/-! PROOFS. Family PE, CMDLATCH and LATCHOUT (41_protocol_engine.md R163, R169): an operation whose micro-steps all lead on to its
answer, the names of LATCHOUT's positions, and the two statements. -/

namespace Sys2Proof.Machine

/-- An operation whose micro-steps before the answer all lead on gives that answer at the state they lead to. -/
theorem perform_leads {c : Config} {i : Instr} {ms : List Micro} {a : Answer} {s s' : State} {loc' : Locals}
    (hprog : microProgram c i = ms ++ [.answer a]) (h : Leads c ms Locals.start s loc' s') :
    perform c i s = s'.respond (response c loc' s' a) := by
  rw [perform, hprog, runMicros_leads h, runMicros_answer]

/-! ### CMDLATCH (R163) -/

theorem perform_cmdlatch {c : Config} (hc : c.wellFormed = true) {cmd : Byte} {s : State} (hf : s.fault = none)
    (hp : passes c cmdlatchPre s.ctlShadow = true) (hg : s.env.link.grants 5 = true) :
    perform c (.cmdlatch cmd) s = (cmdlatchEnd c cmd s).respond ⟨.ok, []⟩ :=
  perform_leads (a := .done) rfl (cmdlatchSteps_leads hc hf hp hg)

/-- Settles O19: the names are the rule's by definition, and the micro-steps lead from the preconditions to `cmdlatchEnd`. -/
theorem cmdlatchCompletes : Obligations.CmdlatchCompletes := by
  intro cmd
  refine ⟨rfl, fun _ => rfl, fun s hidle hf hce hre hg => ?_⟩
  rw [exec_idle _ hidle, perform_cmdlatch standard_wellFormed hf (passes_cmdlatch.2 ⟨hce, hre⟩) hg]

/-! ### LATCHOUT (R169) -/

theorem perform_latchout {c : Config} {n : Word} {s : State} (hf : s.fault = none)
    (hp : passes c latchoutPre s.ctlShadow = true) (hg : s.env.link.grants (2 + 3 * n.toNat) = true) :
    perform c (.latchout n) s = (latchoutEnd c n.toNat s).respond ⟨.ok, s.dioAhead n.toNat⟩ :=
  perform_leads (a := .obuf) rfl (latchoutSteps_leads hf hp hg)

/-- The positions of read cycle i: the micro-step inside the cycle is the index modulo 5, the cycle's number the quotient. -/
theorem latchoutPosition_readCycle {n i j : Nat} (hi : i < n) (hj : j < 5) :
    latchoutPosition n (3 + 5 * i + j) =
      [Position.strobeLow i, .accessed i, .sampled i, .strobeHigh i, .held i][j] := by
  have hmod : (3 + 5 * i + j - 3) % 5 = j := by omega
  have hdiv : (3 + 5 * i + j - 3) / 5 = i := by omega
  rw [latchoutPosition, if_neg (by omega), if_neg (by omega), if_pos (by omega), hmod, hdiv]
  interval_cases j <;> rfl

@[simp] theorem latchoutPosition_dirIn (n : Nat) : latchoutPosition n 2 = .dirIn := rfl

/-- After the last read cycle the bus is turned out again. -/
@[simp] theorem latchoutPosition_dirOut (n : Nat) : latchoutPosition n (3 + 5 * n) = .dirOut := by
  rw [latchoutPosition, if_neg (by omega), if_neg (by omega), if_neg (by omega), if_pos rfl]

/-- Settles O21: the read cycles are five micro-steps each, and the micro-steps lead from the preconditions to `latchoutEnd`, whose
`obuf` is the answer's data. -/
theorem latchoutCompletes : Obligations.LatchoutCompletes := by
  intro n
  refine ⟨fun _ i hi => ?names,
    fun _ => ⟨latchoutPosition_dirIn _, latchoutPosition_dirOut _⟩, fun s hidle hf hce hwe hale hg => ?run⟩
  case names =>
    simp only [List.map_cons, List.map_nil, position, latchoutPosition_readCycle hi, Nat.reduceLT]
    rfl
  case run => rw [exec_idle _ hidle, perform_latchout hf (passes_latchout.2 ⟨hce, hwe, hale⟩) hg]

end Sys2Proof.Machine
end

section
/-! PROOFS. Family AM, MAP (42_address_mapper.md R200): its encoding, the address cycles as plain arithmetic, and the
statement. -/

namespace Sys2Proof

theorem decode_encode_map (c : Config) (a : Word) : decode c (encode (.map a)) = .ok (.map a) := by
  have hop : (encode (.map a)).extractLsb' 56 8 = 0x41#8 := opcode_encode _
  have hres : (encode (.map a)).extractLsb' 32 24 = 0#24 := word_reserved _ _
  have harg : (encode (.map a)).extractLsb' 0 32 = a := word_operand _ _
  simp [decode, hop, reservedZero_of_eq hres, harg]

end Sys2Proof

namespace Sys2Proof.Machine

/-! ### The address cycles (R200) -/

/-- A bit slice of an address, zero-extended or cut to a byte, in plain arithmetic. -/
theorem setWidth_extractLsb'_toNat (a : Word) (start len : Nat) :
    (a.extractLsb' start len).setWidth 8 = BitVec.ofNat 8 (a.toNat / 2 ^ start % 2 ^ len) := by
  rw [← BitVec.ofNat_toNat, BitVec.extractLsb'_toNat, Nat.shiftRight_eq_div_pow]

/-- A slice of eight bits is a byte already. -/
theorem byteSlice_eq (a : Word) (start : Nat) :
    a.extractLsb' start 8 = BitVec.ofNat 8 (a.toNat / 2 ^ start % 2 ^ 8) := by
  rw [← BitVec.setWidth_eq (a.extractLsb' start 8), setWidth_extractLsb'_toNat]

theorem mapCycles_eq (a : Word) :
    mapCycles a =
      [BitVec.ofNat 8 (a.toNat % 256), BitVec.ofNat 8 (a.toNat / 2 ^ 8 % 16), BitVec.ofNat 8 (a.toNat / 2 ^ 12 % 256),
        BitVec.ofNat 8 (a.toNat / 2 ^ 20 % 256), BitVec.ofNat 8 (a.toNat / 2 ^ 28 % 4)] := by
  simp only [mapCycles, byteSlice_eq, setWidth_extractLsb'_toNat, Nat.reducePow, Nat.div_one]

/-! ### MAP -/

theorem perform_map (c : Config) (a : Word) (s : State) : perform c (.map a) s = s.respond ⟨.ok, mapCycles a⟩ := rfl

/-- Settles O30: MAP's only micro-step is its answer, and the cycles are the five slices. -/
theorem mapAnswers : Obligations.MapAnswers := by
  intro a
  refine ⟨decode_encode_map _ a, fun s hidle => ?_⟩
  rw [exec_idle _ hidle, perform_map, mapCycles_eq]

end Sys2Proof.Machine
end

section
/-! PROOFS. Family FO, PROGRAM (43_flash_operations.md R224): the encodings of PROGRAM and DUMP in format Z (R102), and
the statement. -/

namespace Sys2Proof

/-- The 56 reserved bits of format Z (R102). -/
theorem zero_reserved (op : Byte) : ((op ++ 0#56 : BitVec 64)).extractLsb' 0 56 = 0#56 :=
  (extract_append_low op 0#56 (by omega)).trans (extract_all 0#56)

theorem decode_encode_program {c : Config} (hc : c.hasFlashMacros = true) :
    decode c (encode .program) = .ok .program := by
  have hop : (encode .program).extractLsb' 56 8 = 0x55#8 := opcode_encode _
  have hres : (encode .program).extractLsb' 0 56 = 0#56 := zero_reserved _
  simp [decode, hop, macroOnly, hc, reservedZero_of_eq hres]

theorem decode_encode_dump {c : Config} (hc : c.hasFlashMacros = true) : decode c (encode .dump) = .ok .dump := by
  have hop : (encode .dump).extractLsb' 56 8 = 0x53#8 := opcode_encode _
  have hres : (encode .dump).extractLsb' 0 56 = 0#56 := zero_reserved _
  simp [decode, hop, macroOnly, hc, reservedZero_of_eq hres]

end Sys2Proof

namespace Sys2Proof.Machine

theorem perform_program (c : Config) (s : State) : perform c .program s = s.respond ⟨.notImplemented, []⟩ := rfl

/-- Settles O42: PROGRAM's only micro-step is its answer, which nothing comes before. -/
theorem programAnswers : Obligations.ProgramAnswers := by
  refine ⟨decode_encode_program rfl, fun s hidle => ?_⟩
  rw [exec_idle _ hidle, perform_program]

end Sys2Proof.Machine
end

section
/-! PROOFS. Micro-steps and steps of any operation: what a micro-step leaves unchanged, how it can go on or end, and the steps of a
machine whose reset input is at rest. -/

namespace Sys2Proof.Machine

/-! ### What a micro-step leaves unchanged -/

/-- The host's program and the reset input are the same in two states. -/
structure SameHost (s t : State) : Prop where
  program : t.env.program = s.env.program
  resetIn : t.env.resetIn = s.env.resetIn

/-- What the bytes of the I/O bus pass through, from the device to the host, is the same in two states. -/
structure SameData (s t : State) : Prop extends SameHost s t where
  dioIn : t.env.dioIn = s.env.dioIn
  obuf : t.obuf = s.obuf
  stream : t.env.stream = s.env.stream

theorem SameData.refl (s : State) : SameData s s := ⟨⟨rfl, rfl⟩, rfl, rfl, rfl⟩

/-- The state a transport primitive leaves satisfies P, whether the call succeeds or fails. -/
def CallResult.All {α : Type} (P : State → Prop) : CallResult α → Prop
  | .done _ s => P s
  | .failed s => P s

theorem afterCall_all {α : Type} {P : State → Prop} {loc : Locals} {r : CallResult α} {next : α → State → Effect}
    (hr : r.All P) (hn : ∀ a t, P t → (next a t).All P) : (afterCall loc r next).All P := by
  cases r with
  | done a t => exact hn a t hr
  | failed t => exact hr

theorem CallResult.All.mono {α : Type} {P Q : State → Prop} {r : CallResult α} (h : r.All P) (hpq : ∀ t, P t → Q t) :
    r.All Q := by
  cases r with
  | done a t => exact hpq t h
  | failed t => exact hpq t h

theorem tWrite_sameData (bus : Bus) (v : Byte) (s : State) : (tWrite bus v s).All (SameData s) := by
  cases h : s.env.link.ask.1 with
  | true =>
    rw [tWrite_granted h]
    refine ⟨⟨?_, ?_⟩, ?_, ?_, ?_⟩ <;> simp
  | false =>
    rw [tWrite_failed h]
    refine ⟨⟨?_, ?_⟩, ?_, ?_, ?_⟩ <;> simp

theorem tConfig_sameData (d : Dir) (s : State) : (tConfig d s).All (SameData s) := by
  cases h : s.env.link.ask.1 with
  | true =>
    rw [tConfig_granted h]
    exact ⟨⟨rfl, rfl⟩, rfl, rfl, rfl⟩
  | false =>
    rw [tConfig_failed h]
    exact ⟨⟨rfl, rfl⟩, rfl, rfl, rfl⟩

theorem tRead_ctl_sameData (s : State) : (tRead .ctl s).All (SameData s) := by
  cases h : s.env.link.ask.1 with
  | true =>
    rw [tRead_granted h]
    exact ⟨⟨rfl, rfl⟩, rfl, rfl, rfl⟩
  | false =>
    rw [tRead_failed h]
    exact ⟨⟨rfl, rfl⟩, rfl, rfl, rfl⟩

theorem tRead_sameHost (bus : Bus) (s : State) : (tRead bus s).All (SameHost s) := by
  cases h : s.env.link.ask.1 with
  | true =>
    rw [tRead_granted h]
    constructor <;> simp
  | false =>
    rw [tRead_failed h]
    exact ⟨rfl, rfl⟩

/-- A new shadow byte and a flush of its bus: `raise_pin`, `lower_pin`, `drive_io` (R23). -/
theorem flushBus_setShadow_sameData (bus : Bus) (v : Byte) (s : State) :
    (flushBus bus (s.setShadow bus v)).All (SameData s) := by
  refine (tWrite_sameData bus _ _).mono fun t h => ?_
  obtain ⟨⟨hprog, hreset⟩, hdio, hobuf, hstream⟩ := h
  exact ⟨⟨by simp [hprog], by simp [hreset]⟩, by simp [hdio], by simp [hobuf], by simp [hstream]⟩

theorem afterPoll_all {P : State → Prop} {c : Config} {loc : Locals} {v : Byte} {s : State} (h : P s) :
    (afterPoll c loc v s).All P := by
  unfold afterPoll
  split
  · exact h
  · split <;> exact h

/-- The micro-steps that take a byte from the I/O bus, empty or fill `obuf`, or hand it over. -/
def Micro.movesData : Micro → Bool
  | .sample .io => true
  | .turnIn => true
  | .fetchByte => true
  | .deliver => true
  | _ => false

/-- Every other micro-step leaves device, `obuf` and stream alone, whether its call succeeds or fails. -/
theorem microEffect_sameData (c : Config) (loc : Locals) (s : State) {m : Micro} (hm : m.movesData = false) :
    (microEffect c loc s m).All (SameData s) := by
  cases m with
  | check pre =>
    rw [microEffect]
    split
    · exact SameData.refl s
    · split <;> exact SameData.refl s
  | assign bus pin on =>
    refine ⟨⟨?_, ?_⟩, ?_, ?_, ?_⟩ <;> simp [assignPin]
  | flush bus => exact afterCall_all (tWrite_sameData bus _ s) fun _ _ h => h
  | sample bus =>
    cases bus with
    | io => cases hm
    | ctl => exact afterCall_all (tRead_ctl_sameData s) fun _ _ h => h
  | config d => exact afterCall_all (tConfig_sameData d s) fun _ _ h => h
  | raise S => exact afterCall_all (flushBus_setShadow_sameData .ctl _ s) fun _ _ h => h
  | lower S => exact afterCall_all (flushBus_setShadow_sameData .ctl _ s) fun _ _ h => h
  | drive b => exact afterCall_all (flushBus_setShadow_sameData .io b s) fun _ _ h => h
  | delay k => exact ⟨⟨rfl, rfl⟩, rfl, rfl, rfl⟩
  | turnIn => cases hm
  | fetchByte => cases hm
  | poll => exact afterCall_all (tRead_ctl_sameData s) fun _ _ h => afterPoll_all h
  | openStream => exact SameData.refl s
  | deliver => cases hm
  | answer a => exact SameData.refl s

/-- No micro-step touches the host's program or the reset input. -/
theorem microEffect_sameHost (c : Config) (loc : Locals) (s : State) (m : Micro) :
    (microEffect c loc s m).All (SameHost s) := by
  cases hm : m.movesData with
  | false =>
    have h := microEffect_sameData c loc s hm
    cases he : microEffect c loc s m <;> rw [he] at h <;> exact h.toSameHost
  | true =>
    cases m with
    | sample bus => exact afterCall_all (tRead_sameHost bus s) fun _ _ h => h
    | turnIn =>
      have hcall := tConfig_sameData .input (s.setObuf [])
      exact afterCall_all (hcall.mono fun _ h => ⟨h.program, h.resetIn⟩) fun _ _ h => h
    | fetchByte => exact afterCall_all (tRead_sameHost .io s) fun _ _ h => ⟨h.program, h.resetIn⟩
    | deliver => exact ⟨rfl, rfl⟩
    | _ => cases hm

/-- Whatever a run of micro-steps ends in, the host's program and the reset input are as before. -/
theorem runMicros_sameHost (c : Config) (op : Instr) (ms : List Micro) (k : Nat) (loc : Locals) (s : State) :
    SameHost s (runMicros c op ms k loc s) := by
  refine runMicros_keeps (P := SameHost s) (fun _ _ _ h => ⟨h.program, h.resetIn⟩)
    (fun _ _ h => ⟨h.program, h.resetIn⟩) (fun m _ loc u hu => ?_) k loc ⟨rfl, rfl⟩
  have h := microEffect_sameHost c loc u m
  cases he : microEffect c loc u m <;> rw [he] at h <;>
    exact ⟨h.program.trans hu.program, h.resetIn.trans hu.resetIn⟩

/-- All that continuing an operation can do: run the micro-steps from its position on (R50). -/
theorem eq_runMicros_of_resume {c : Config} {op : Instr} {k : Nat} {loc : Locals} {s t : State}
    (h : resume c op k loc s = .next t) : t = runMicros c op ((microProgram c op).drop k) k loc s := by
  unfold resume at h
  split at h
  · cases h
  · next m ms hk =>
    cases h
    rw [hk]

/-! ### What a micro-step makes of the variables, and how it ends an operation -/

/-- The variable `mark` stays, only a busy-poll read is made again, only an answer ends with the response it gives, and an error is
never OK. -/
def Effect.KeepsMarkOrEnds (c : Config) (loc : Locals) (s : State) (m : Micro) : Effect → Prop
  | .go l _ => l.mark = loc.mark
  | .again l _ => l.mark = loc.mark ∧ m = .poll
  | .finish r t => ∃ a, m = .answer a ∧ r = response c loc s a ∧ t = s
  | .stop status _ _ => status ≠ .ok

theorem afterCall_keepsMarkOrEnds {α : Type} {c : Config} {loc : Locals} {s : State} {m : Micro} {r : CallResult α}
    {next : α → State → Effect} (h : ∀ a t, (next a t).KeepsMarkOrEnds c loc s m) :
    (afterCall loc r next).KeepsMarkOrEnds c loc s m := by
  cases r with
  | done a t => exact h a t
  | failed t => exact Status.noConfusion

theorem afterPoll_keepsMarkOrEnds (c : Config) (loc : Locals) (v : Byte) (s t : State) :
    (afterPoll c loc v t).KeepsMarkOrEnds c loc s .poll := by
  unfold afterPoll
  split
  · rfl
  · split
    · exact Status.noConfusion
    · exact ⟨rfl, rfl⟩

theorem microEffect_keepsMarkOrEnds (c : Config) (loc : Locals) (s : State) {m : Micro} (hm : m ≠ .openStream) :
    (microEffect c loc s m).KeepsMarkOrEnds c loc s m := by
  cases m with
  | check pre =>
    rw [microEffect]
    split
    · exact Status.noConfusion
    · split
      · rfl
      · exact Status.noConfusion
  | openStream => exact absurd rfl hm
  | poll => exact afterCall_keepsMarkOrEnds fun v t => afterPoll_keepsMarkOrEnds c loc v s t
  | answer a => exact ⟨a, rfl, rfl, rfl⟩
  | assign => rfl
  | delay => rfl
  | deliver => rfl
  | _ => exact afterCall_keepsMarkOrEnds fun _ _ => rfl

/-! ### Steps with the reset input at rest -/

theorem afterSampling_of_nil {s : State} (h : s.env.resetIn = []) : s.afterSampling = s := by
  ext1
  case env => ext1 <;> simp [h]
  all_goals rfl

theorem step_run {s : State} {op : Instr} {k : Nat} {loc : Locals} (h : s.env.resetIn = [])
    (hseq : s.seq = .run op k loc) : step s = resume Config.standard op k loc s := by
  simp [step, resetDue, h, afterSampling_of_nil h, turn_run hseq]

theorem step_wait {s : State} (h : s.env.resetIn = []) (hseq : s.seq = .idle) (hp : s.env.program = []) :
    step s = .next s := by
  simp [step, resetDue, h, afterSampling_of_nil h, turn_wait hseq hp]

theorem step_issue {s : State} {W : Descriptor} {rest : List Descriptor} {i : Instr} (h : s.env.resetIn = [])
    (hseq : s.seq = .idle) (hp : s.env.program = W :: rest) (hd : decode Config.standard W = .ok i) :
    step s = .next (perform Config.standard i { s with env := { s.env with program := rest } }) := by
  simp [step, resetDue, h, afterSampling_of_nil h, turn_issue hseq hp hd, exec_idle i, hseq]

theorem step_illegal {s : State} {W : Descriptor} {rest : List Descriptor} {e : DecodeError} (h : s.env.resetIn = [])
    (hseq : s.seq = .idle) (hp : s.env.program = W :: rest) (hd : decode Config.standard W = .error e) :
    step s = .next ({ s with env := { s.env with program := rest } }.respond ⟨.illegal, []⟩) := by
  simp [step, resetDue, h, afterSampling_of_nil h, turn_illegal hseq hp hd]

/-- The descriptors the host has left once the machine has taken its turn: one fewer if it is Idle (R52). -/
def State.programAfterTurn (s : State) : List Descriptor :=
  match s.seq with
  | .idle => s.env.program.tail
  | .run _ _ _ => s.env.program

theorem programAfterTurn_idle {s : State} (h : s.seq = .idle) : s.programAfterTurn = s.env.program.tail := by
  rw [State.programAfterTurn, h]

theorem programAfterTurn_run {s : State} {op : Instr} {k : Nat} {loc : Locals} (h : s.seq = .run op k loc) :
    s.programAfterTurn = s.env.program := by
  rw [State.programAfterTurn, h]

theorem step_program {s t : State} (h : s.env.resetIn = []) (hstep : step s = .next t) :
    t.env.program = s.programAfterTurn ∧ t.env.resetIn = [] := by
  cases hseq : s.seq with
  | run op k loc =>
    rw [step_run h hseq] at hstep
    obtain rfl := eq_runMicros_of_resume hstep
    have hhost := runMicros_sameHost Config.standard op ((microProgram Config.standard op).drop k) k loc s
    exact ⟨hhost.program.trans (programAfterTurn_run hseq).symm, hhost.resetIn.trans h⟩
  | idle =>
    rw [programAfterTurn_idle hseq]
    cases hp : s.env.program with
    | nil =>
      rw [step_wait h hseq hp] at hstep
      cases hstep
      exact ⟨hp, h⟩
    | cons W rest =>
      cases hd : decode Config.standard W with
      | ok i =>
        rw [step_issue h hseq hp hd] at hstep
        cases hstep
        have hhost := runMicros_sameHost Config.standard i (microProgram Config.standard i) 0 Locals.start
          { s with env := { s.env with program := rest } }
        exact ⟨hhost.program, hhost.resetIn.trans h⟩
      | error e =>
        rw [step_illegal h hseq hp hd] at hstep
        cases hstep
        exact ⟨rfl, h⟩

/-- A run of several steps is a first step and a run of the others. -/
theorem run_succ {M : Host.Core} {n : Nat} {s t : M.State} (h : M.run (n + 1) s = .next t) :
    ∃ u, M.step s = .next u ∧ M.run n u = .next t := by
  rw [Host.Core.run] at h
  split at h
  · next u hu => exact ⟨u, hu, h⟩
  · cases h
  · cases h

theorem core_run_succ {n : Nat} {s t : State} (h : Sys2Proof.core.run (n + 1) s = .next t) :
    ∃ u, step s = .next u ∧ Sys2Proof.core.run n u = .next t := run_succ h

/-- A run without reset leaves the host no more descriptors than it had. -/
theorem core_run_program_length_le {n : Nat} {s t : State} (h : s.env.resetIn = [])
    (hrun : Sys2Proof.core.run n s = .next t) : t.env.program.length ≤ s.env.program.length := by
  induction n generalizing s with
  | zero =>
    cases hrun
    exact Nat.le_refl _
  | succ n ih =>
    obtain ⟨u, hstep, hrun⟩ := core_run_succ hrun
    obtain ⟨hprogram, hreset⟩ := step_program h hstep
    refine (ih hreset hrun).trans ?_
    rw [hprogram]
    cases hseq : s.seq with
    | idle => simp [programAfterTurn_idle hseq]
    | run op k loc => rw [programAfterTurn_run hseq]

end Sys2Proof.Machine
end

section
/-! PROOFS. Family FO, the DUMP stream (43_flash_operations.md R216). The invariant: at every rest of a DUMP, what it has handed to
the host followed by what its remaining micro-steps would still hand over is the same list, namely the bytes the device had ahead
of it when the DUMP began. How often the device is busy, and so how many steps the DUMP takes, never enters. -/

namespace Sys2Proof.Machine

/-! ### What the remaining micro-steps hand over -/

/-- The bytes a list of micro-steps hands to the host up to its answer, when all lead on, from an output buffer and a device. -/
def handsOver : List Micro → List Byte → Channel → List Byte
  | [], _, _ => []
  | .turnIn :: ms, _, dio => handsOver ms [] dio
  | .fetchByte :: ms, obuf, dio =>
    handsOver ms (obuf ++ [(dio.draw Config.freeDioByte).1]) (dio.draw Config.freeDioByte).2
  | .deliver :: ms, obuf, dio => obuf ++ handsOver ms obuf dio
  | .answer _ :: _, _, _ => []
  | _ :: ms, obuf, dio => handsOver ms obuf dio

/-- The host's stream as it will be once the micro-steps have all led on. -/
def streamAfter (ms : List Micro) (s : State) : List Byte := s.env.stream ++ handsOver ms s.obuf s.env.dioIn

/-- The micro-steps of a DUMP after its first: none opens a stream anew or keeps a byte from the host, and the answer is the
stream. -/
def Micro.ofDumpLoop : Micro → Bool
  | .sample _ => false
  | .openStream => false
  | .answer a => a = .stream
  | _ => true

theorem handsOver_of_not_movesData {m : Micro} (hm : m.movesData = false) (ha : ∀ a, m ≠ .answer a) (ms : List Micro)
    (obuf : List Byte) (dio : Channel) : handsOver (m :: ms) obuf dio = handsOver ms obuf dio := by
  cases m with
  | answer a => exact absurd rfl (ha a)
  | turnIn => cases hm
  | fetchByte => cases hm
  | deliver => cases hm
  | _ => rfl

/-- With the same data, the micro-steps hand over the same. -/
theorem SameData.streamAfter_eq {s t : State} (h : SameData s t) (ms : List Micro) : streamAfter ms t = streamAfter ms s := by
  rw [streamAfter, streamAfter, h.stream, h.obuf, h.dioIn]

/-- A micro-step of DUMP that leads on leaves what will be handed over as it was. -/
theorem streamAfter_of_go {c : Config} {loc l : Locals} {s t : State} {m : Micro} (hm : m.ofDumpLoop = true)
    (h : microEffect c loc s m = .go l t) (ms : List Micro) : streamAfter ms t = streamAfter (m :: ms) s := by
  cases hdata : m.movesData with
  | false =>
    have hsame : SameData s t := by
      have hall := microEffect_sameData c loc s hdata
      rwa [h] at hall
    have hanswer : ∀ a, m ≠ .answer a := by
      rintro a rfl
      cases h
    rw [hsame.streamAfter_eq, streamAfter, streamAfter, handsOver_of_not_movesData hdata hanswer]
  | true =>
    cases m with
    | sample bus => cases hm
    | turnIn =>
      cases hask : s.env.link.ask.1 with
      | true =>
        rw [turnIn_goes hask] at h
        cases h
        rfl
      | false =>
        rw [microEffect, tConfig_failed (s := s.setObuf []) hask] at h
        cases h
    | fetchByte =>
      cases hask : s.env.link.ask.1 with
      | true =>
        rw [fetchByte_goes hask] at h
        cases h
        rfl
      | false =>
        rw [microEffect, tRead_failed hask] at h
        cases h
    | deliver =>
      cases h
      exact List.append_assoc _ _ _
    | _ => cases hdata

/-- So does a busy-poll read that is not ready, which is made again. -/
theorem streamAfter_of_again {c : Config} {loc l : Locals} {s t : State} (h : microEffect c loc s .poll = .again l t)
    (ms : List Micro) : streamAfter ms t = streamAfter ms s := by
  have hall := microEffect_sameData c loc s (m := .poll) rfl
  rw [h] at hall
  exact hall.streamAfter_eq ms

/-! ### What a whole DUMP hands over -/

theorem handsOver_readCycles (n : Nat) (ms : List Micro) (obuf : List Byte) (dio : Channel) :
    handsOver (readCycles n ++ ms) obuf dio =
      handsOver ms (obuf ++ dio.ahead Config.freeDioByte n) (dio.skip Config.freeDioByte n) := by
  induction n generalizing obuf dio with
  | zero => simp [readCycles, Channel.ahead, Channel.skip]
  | succ n ih =>
    have hcycle : handsOver (readCycles (n + 1) ++ ms) obuf dio =
        handsOver (readCycles n ++ ms) (obuf ++ [(dio.draw Config.freeDioByte).1]) (dio.draw Config.freeDioByte).2 := rfl
    rw [hcycle, ih, Channel.ahead, Channel.skip, List.append_assoc, List.singleton_append]

/-- A page read fills the output buffer with the next page of bytes, whatever was in it (R212). -/
theorem handsOver_pagereadSteps (c : Config) (page : Word) (ms : List Micro) (obuf : List Byte) (dio : Channel) :
    handsOver (pagereadSteps c page ++ ms) obuf dio =
      handsOver ms (dio.ahead Config.freeDioByte c.pageBytes) (dio.skip Config.freeDioByte c.pageBytes) := by
  have hstart : handsOver (pagereadSteps c page ++ ms) obuf dio =
      handsOver (readCycles c.pageBytes ++ ([.config .output] ++ ms)) [] dio := by
    simp only [pagereadSteps, latchoutSteps, List.append_assoc]
    rfl
  rw [hstart, handsOver_readCycles]
  rfl

/-- DUMP's loop of n pages hands over the next n pages of bytes (R215). -/
theorem handsOver_dumpSteps (c : Config) (i n : Nat) (obuf : List Byte) (dio : Channel) :
    handsOver (dumpSteps c i n ++ [.answer .stream]) obuf dio = dio.ahead Config.freeDioByte (n * c.pageBytes) := by
  induction n generalizing i obuf dio with
  | zero =>
    rw [Nat.zero_mul]
    rfl
  | succ n ih =>
    rw [dumpSteps, List.append_assoc, List.append_assoc, handsOver_pagereadSteps, Nat.succ_mul,
      Nat.add_comm (n * c.pageBytes), Channel.ahead_add, List.singleton_append, handsOver, ih]

theorem readCycles_ofDumpLoop (n : Nat) : (readCycles n).all Micro.ofDumpLoop = true := by
  induction n with
  | zero => rfl
  | succ n ih => exact ih

theorem pagereadSteps_ofDumpLoop (c : Config) (page : Word) : (pagereadSteps c page).all Micro.ofDumpLoop = true := by
  simp only [pagereadSteps, latchoutSteps, List.all_append, readCycles_ofDumpLoop]
  rfl

theorem dumpSteps_ofDumpLoop (c : Config) (i n : Nat) : (dumpSteps c i n).all Micro.ofDumpLoop = true := by
  induction n generalizing i with
  | zero => rfl
  | succ n ih =>
    rw [dumpSteps, List.all_append, pagereadSteps_ofDumpLoop, List.all_append, ih]
    rfl

/-! ### The invariant of a DUMP -/

/-- A DUMP with these micro-steps to go: its variable `mark` says where in the host's stream it began, and once they have all led on,
the stream will be what it was then, followed by the record bytes. -/
structure DumpUnderway (before record : List Byte) (ms : List Micro) (loc : Locals) (s : State) : Prop where
  steps : ms.all Micro.ofDumpLoop = true
  mark : loc.mark = before.length
  stream : streamAfter ms s = before ++ record

/-- Where a step of a DUMP leaves it: at a Run position with the invariant, or answered, and then with the record if it answered
OK. -/
inductive DumpRests (c : Config) (before record : List Byte) (s : State) : Prop where
  | running (k : Nat) (loc : Locals) (hseq : s.seq = .run .dump k loc)
      (h : DumpUnderway before record ((microProgram c .dump).drop k) loc s)
  | answered (hseq : s.seq = .idle)
      (h : s.resp.status = .ok → s.env.stream = before ++ record ∧ s.resp.data = record)

/-- The answer of DUMP: at it nothing is left to hand over, so the stream holds the record. -/
theorem DumpUnderway.answers {c : Config} {before record : List Byte} {a : Answer} {ms : List Micro} {loc : Locals}
    {s : State} (h : DumpUnderway before record (.answer a :: ms) loc s) :
    s.env.stream = before ++ record ∧ (response c loc s a).data = record := by
  have ha : a = .stream := of_decide_eq_true (Bool.and_eq_true_iff.1 h.steps).1
  have hstream : s.env.stream = before ++ record := (List.append_nil _).symm.trans h.stream
  exact ⟨hstream, by rw [ha, response, dumped, hstream, h.mark, List.drop_left]⟩

/-- The micro-steps of a DUMP, from any position, leave it at rest. -/
theorem runMicros_dumpRests {c : Config} {before record : List Byte} {ms : List Micro} {k : Nat} {loc : Locals}
    {s : State} (hk : (microProgram c .dump).drop k = ms) (h : DumpUnderway before record ms loc s) :
    DumpRests c before record (runMicros c .dump ms k loc s) := by
  induction ms generalizing k loc s with
  | nil => exact .running k loc rfl (by rw [hk]; exact ⟨h.steps, h.mark, h.stream⟩)
  | cons m ms ih =>
    obtain ⟨hm, hms⟩ : m.ofDumpLoop = true ∧ ms.all Micro.ofDumpLoop = true := Bool.and_eq_true_iff.1 h.steps
    have hkeeps := microEffect_keepsMarkOrEnds c loc s (m := m) (by rintro rfl; cases hm)
    cases he : microEffect c loc s m with
    | go l t =>
      rw [he] at hkeeps
      rw [runMicros_go he]
      refine ih ?_ ⟨hms, hkeeps.trans h.mark, (streamAfter_of_go hm he ms).trans h.stream⟩
      rw [← List.drop_drop, hk, List.drop_one, List.tail_cons]
    | again l t =>
      rw [he] at hkeeps
      obtain ⟨hmark, rfl⟩ := hkeeps
      rw [runMicros_again he]
      exact .running k l rfl (hk ▸ ⟨h.steps, hmark.trans h.mark, (streamAfter_of_again he _).trans h.stream⟩)
    | finish r t =>
      rw [he] at hkeeps
      obtain ⟨a, rfl, rfl, rfl⟩ := hkeeps
      rw [runMicros_finish he]
      exact .answered rfl fun _ => h.answers
    | stop status l t =>
      rw [he] at hkeeps
      rw [runMicros_stop he]
      exact .answered rfl fun hok => absurd hok hkeeps

/-- A DUMP issued: the record is what the device has ahead of it (R215). -/
theorem perform_dumpRests (c : Config) (s : State) :
    DumpRests c s.env.stream (s.dioAhead (c.nPages * c.pageBytes)) (perform c .dump s) := by
  refine runMicros_dumpRests (k := 1) (ms := dumpSteps c 0 c.nPages ++ [.answer .stream])
    (loc := { Locals.start with mark := s.env.stream.length }) rfl ⟨?_, rfl, ?_⟩
  · rw [List.all_append, dumpSteps_ofDumpLoop]
    rfl
  · rw [streamAfter, handsOver_dumpSteps, State.dioAhead]

/-- A DUMP continued after a busy wait (R50). -/
theorem DumpUnderway.resumes {c : Config} {before record : List Byte} {k : Nat} {loc : Locals} {s t : State}
    (h : DumpUnderway before record ((microProgram c .dump).drop k) loc s) (ht : resume c .dump k loc s = .next t) :
    DumpRests c before record t := by
  obtain rfl := eq_runMicros_of_resume ht
  exact runMicros_dumpRests rfl h

/-! ### Runs of a DUMP, and its records -/

/-- A run from a DUMP at rest, in which the host issues nothing more, ends with the DUMP at rest. -/
theorem core_run_dumpRests {before record : List Byte} {n : Nat} {s t : State} (h : s.env.resetIn = [])
    (hs : DumpRests Config.standard before record s) (hrun : Sys2Proof.core.run n s = .next t)
    (hprogram : t.env.program = s.env.program) : DumpRests Config.standard before record t := by
  induction n generalizing s with
  | zero =>
    cases hrun
    exact hs
  | succ n ih =>
    obtain ⟨u, hstep, hrun⟩ := core_run_succ hrun
    obtain ⟨hu, hreset⟩ := step_program h hstep
    cases hs with
    | running k loc hseq hdump =>
      rw [step_run h hseq] at hstep
      exact ih hreset (hdump.resumes hstep) hrun (by rw [hprogram, hu, programAfterTurn_run hseq])
    | answered hseq hok =>
      cases hp : s.env.program with
      | nil =>
        rw [step_wait h hseq hp] at hstep
        cases hstep
        exact ih h (.answered hseq hok) hrun hprogram
      | cons W rest =>
        have hle := core_run_program_length_le hreset hrun
        rw [hprogram, hu, programAfterTurn_idle hseq, hp] at hle
        simp at hle

/-- A record of a list that is one byte throughout. -/
theorem record_eq_replicate {l : List Byte} {start n : Nat} {b : Byte} (h : ∀ j < n, l[start + j]? = some b) :
    (l.drop start).take n = List.replicate n b := by
  refine List.ext_getElem? fun j => ?_
  rw [List.getElem?_take, List.getElem?_replicate, List.getElem?_drop]
  split
  · next hj => exact h j hj
  · rfl

/-- Settles O38: a DUMP that has been issued rests with its invariant after every step, and once it has answered OK the invariant
is the statement. -/
theorem dumpStream : Obligations.DumpStream := by
  intro n s t rest hseq _ hreset hprogram hrun hrest hidle _ hok
  have hanswer : t.env.stream = s.env.stream ++ s.dioAhead (262144 * 2112) ∧ t.resp.data = s.dioAhead (262144 * 2112) := by
    cases n with
    | zero =>
      cases hrun
      exact absurd (hprogram.symm.trans hrest) (by simp)
    | succ n =>
      obtain ⟨u, hstep, hrun⟩ := core_run_succ hrun
      obtain ⟨hu, hureset⟩ := step_program hreset hstep
      rw [programAfterTurn_idle hseq, hprogram] at hu
      rw [step_issue hreset hseq hprogram (decode_encode_dump rfl)] at hstep
      cases hstep
      have hrests := perform_dumpRests Config.standard { s with env := { s.env with program := rest } }
      cases core_run_dumpRests hureset hrests hrun (hrest.trans hu.symm) with
      | running k loc hrunning => exact absurd (hidle.symm.trans hrunning) Sequencer.noConfusion
      | answered _ h => exact h hok
  obtain ⟨hstream, hdata⟩ := hanswer
  rw [hdata]
  exact ⟨hstream, rfl, Channel.length_ahead _ _ _, fun i _ hbytes => record_eq_replicate hbytes⟩

end Sys2Proof.Machine
end

section
/-! PROOFS. The precondition table (60_exceptions.md R247). An operation that ends answers PRECONDITION only at a check, and what a
check reads is the control shadow, which only `raise_pin`, `lower_pin` and SETPIN write. So whether the checks of a list of
micro-steps pass can be told from the shadow it starts at (`ChecksPass`), whatever transport and device answer; in an operation
of family FO every check after the first CMDLATCH's passes. -/

namespace Sys2Proof.Machine

/-! ### The checks of a list of micro-steps -/

/-- The control shadow a micro-step leaves if it leads on. -/
def Micro.shadowAfter (c : Config) (v : Byte) : Micro → Byte
  | .assign .ctl pin on => setBit v pin on
  | .raise S => setSignal c v S true
  | .lower S => setSignal c v S false
  | _ => v

/-- At the shadow `v` the micro-step does not end its operation with PRECONDITION. -/
def Micro.Admits (c : Config) (v : Byte) : Micro → Prop
  | .check pre => passes c pre v = true
  | .answer (.fixed r) => r.status ≠ .precondition
  | _ => True

/-- The control shadow a list of micro-steps leaves if all lead on. -/
def shadowAfter (c : Config) (ms : List Micro) (v : Byte) : Byte := ms.foldl (Micro.shadowAfter c) v

/-- None of the micro-steps, started at the shadow `v`, ends its operation with PRECONDITION. -/
def ChecksPass (c : Config) : List Micro → Byte → Prop
  | [], _ => True
  | m :: ms, v => m.Admits c v ∧ ChecksPass c ms (m.shadowAfter c v)

@[simp] theorem shadowAfter_append (c : Config) (ms ns : List Micro) (v : Byte) :
    shadowAfter c (ms ++ ns) v = shadowAfter c ns (shadowAfter c ms v) :=
  List.foldl_append

@[simp] theorem checksPass_append {c : Config} {ms ns : List Micro} {v : Byte} :
    ChecksPass c (ms ++ ns) v ↔ ChecksPass c ms v ∧ ChecksPass c ns (shadowAfter c ms v) := by
  induction ms generalizing v with
  | nil => exact (true_and _).to_iff.symm
  | cons m ms ih => simp [ChecksPass, shadowAfter, ih, and_assoc]

/-! ### A run whose checks pass -/

/-- A micro-step that leads on keeps the fault clear and leaves the shadow `shadowAfter` says; one that ends the operation does not
end it with PRECONDITION. -/
def Effect.Unrefused (v : Byte) : Effect → Prop
  | .go _ t => t.fault = none ∧ t.ctlShadow = v
  | .again _ _ => True
  | .finish r _ => r.status ≠ .precondition
  | .stop status _ _ => status ≠ .precondition

/-- A transport call that succeeds leaves the fault clear and the control shadow `v`. -/
def CallResult.Clear {α : Type} (v : Byte) : CallResult α → Prop
  | .done _ t => t.fault = none ∧ t.ctlShadow = v
  | .failed _ => True

theorem tWrite_clear {bus : Bus} {b : Byte} {s : State} (hf : s.fault = none) : (tWrite bus b s).Clear s.ctlShadow := by
  cases h : s.env.link.ask.1 with
  | true =>
    rw [tWrite_granted h]
    constructor <;> simp [hf]
  | false =>
    rw [tWrite_failed h]
    trivial

theorem tRead_clear {bus : Bus} {s : State} (hf : s.fault = none) : (tRead bus s).Clear s.ctlShadow := by
  cases h : s.env.link.ask.1 with
  | true =>
    rw [tRead_granted h]
    constructor <;> simp [hf]
  | false =>
    rw [tRead_failed h]
    trivial

theorem tConfig_clear {d : Dir} {s : State} (hf : s.fault = none) : (tConfig d s).Clear s.ctlShadow := by
  cases h : s.env.link.ask.1 with
  | true =>
    rw [tConfig_granted h]
    exact ⟨hf, rfl⟩
  | false =>
    rw [tConfig_failed h]
    trivial

/-- A failed call ends the operation with TRANSPORT, so only the success of a call is to be looked at. -/
theorem afterCall_unrefused {α : Type} {u v : Byte} {loc : Locals} {r : CallResult α} {next : α → State → Effect}
    (hr : r.Clear u) (hn : ∀ a t, t.fault = none → t.ctlShadow = u → (next a t).Unrefused v) :
    (afterCall loc r next).Unrefused v := by
  cases r with
  | done a t => exact hn a t hr.1 hr.2
  | failed t => exact Status.noConfusion

theorem afterPoll_unrefused {c : Config} {loc : Locals} {b : Byte} {s : State} (hf : s.fault = none) :
    (afterPoll c loc b s).Unrefused s.ctlShadow := by
  unfold afterPoll
  split
  · exact ⟨hf, rfl⟩
  · split
    · exact Status.noConfusion
    · trivial

theorem response_status_ne_precondition {c : Config} {v : Byte} {loc : Locals} {s : State} {a : Answer}
    (h : (Micro.answer a).Admits c v) : (response c loc s a).status ≠ .precondition := by
  cases a with
  | fixed r => exact h
  | identify =>
    rw [response, idStatus]
    split <;> exact Status.noConfusion
  | erase =>
    rw [response, eraseStatus]
    split <;> exact Status.noConfusion
  | _ => exact Status.noConfusion

theorem microEffect_unrefused {c : Config} {loc : Locals} {s : State} {m : Micro} (hf : s.fault = none)
    (hm : m.Admits c s.ctlShadow) : (microEffect c loc s m).Unrefused (m.shadowAfter c s.ctlShadow) := by
  cases m with
  | check pre =>
    rw [check_passes hf hm]
    exact ⟨hf, rfl⟩
  | assign bus pin on => cases bus <;> exact ⟨hf, rfl⟩
  | flush bus => exact afterCall_unrefused (tWrite_clear hf) fun _ _ ht hv => ⟨ht, hv⟩
  | sample bus => exact afterCall_unrefused (tRead_clear hf) fun _ _ ht hv => ⟨ht, hv⟩
  | config d => exact afterCall_unrefused (tConfig_clear hf) fun _ _ ht hv => ⟨ht, hv⟩
  | raise S => exact afterCall_unrefused (tWrite_clear hf) fun _ _ ht hv => ⟨ht, hv⟩
  | lower S => exact afterCall_unrefused (tWrite_clear hf) fun _ _ ht hv => ⟨ht, hv⟩
  | drive b => exact afterCall_unrefused (tWrite_clear hf) fun _ _ ht hv => ⟨ht, hv⟩
  | delay k => exact ⟨hf, rfl⟩
  | turnIn => exact afterCall_unrefused (tConfig_clear hf) fun _ _ ht hv => ⟨ht, hv⟩
  | fetchByte => exact afterCall_unrefused (tRead_clear hf) fun _ _ ht hv => ⟨ht, hv⟩
  | poll => exact afterCall_unrefused (tRead_clear hf) fun _ _ ht hv => hv ▸ afterPoll_unrefused ht
  | openStream => exact ⟨hf, rfl⟩
  | deliver => exact ⟨hf, rfl⟩
  | answer a => exact response_status_ne_precondition hm

/-- An operation whose checks all pass, if it ends, does not answer PRECONDITION. -/
theorem runMicros_status_ne_precondition {c : Config} {op : Instr} {ms : List Micro} {k : Nat} {loc : Locals} {s : State}
    (hf : s.fault = none) (hp : ChecksPass c ms s.ctlShadow) (hend : (runMicros c op ms k loc s).seq = .idle) :
    (runMicros c op ms k loc s).resp.status ≠ .precondition := by
  induction ms generalizing k loc s with
  | nil => cases hend
  | cons m ms ih =>
    obtain ⟨hm, hms⟩ := hp
    have heff := microEffect_unrefused (loc := loc) hf hm
    cases he : microEffect c loc s m with
    | go l t =>
      rw [he] at heff
      obtain ⟨ht, hv⟩ := heff
      rw [runMicros_go he] at hend ⊢
      exact ih ht (hv ▸ hms) hend
    | again l t =>
      rw [runMicros_again he] at hend
      cases hend
    | finish r t =>
      rw [he] at heff
      rw [runMicros_finish he]
      exact heff
    | stop status l t =>
      rw [he] at heff
      rw [runMicros_stop he]
      exact heff

/-- An operation that starts with a check, and whose checks all pass if that one does, answers PRECONDITION exactly when the check
refuses. -/
theorem runMicros_check_precondition_iff {c : Config} {op : Instr} {pre : List (CtlSignal × Bool)} {ms : List Micro}
    {k : Nat} {loc : Locals} {s : State} (hf : s.fault = none)
    (hall : passes c pre s.ctlShadow = true → ChecksPass c (.check pre :: ms) s.ctlShadow)
    (hend : (runMicros c op (.check pre :: ms) k loc s).seq = .idle) :
    (runMicros c op (.check pre :: ms) k loc s).resp.status = .precondition ↔ passes c pre s.ctlShadow = false := by
  cases hp : passes c pre s.ctlShadow with
  | false => simp [runMicros_stop (check_refuses hf hp)]
  | true =>
    have hne := runMicros_status_ne_precondition hf (hall hp) hend
    simp [hne]

/-! ### The checks of the engine's operations -/

/-- The loop over the address bytes checks nothing, and raises nWE last (R165). -/
theorem checksPass_addressLoop (c : Config) (bytes : List Byte) (v : Byte) :
    ChecksPass c (bytes.flatMap addressSteps) v := by
  induction bytes generalizing v with
  | nil => trivial
  | cons b bs ih =>
    rw [List.flatMap_cons, checksPass_append]
    exact ⟨by simp [addressSteps, ChecksPass, Micro.Admits], ih _⟩

theorem signal_addressLoop {c : Config} (hc : c.wellFormed = true) (bytes : List Byte) (v : Byte) (T : CtlSignal) :
    signal c (shadowAfter c (bytes.flatMap addressSteps) v) T =
      if T = .nwe ∧ bytes ≠ [] then true else signal c v T := by
  induction bytes generalizing v with
  | nil => simp [shadowAfter]
  | cons b bs ih =>
    rw [List.flatMap_cons, shadowAfter_append, ih]
    by_cases hT : T = .nwe <;> simp [shadowAfter, addressSteps, Micro.shadowAfter, signal_setSignal hc, hT]

/-- The read cycles check nothing, and raise nRE last (R168). -/
theorem checksPass_readCycles (c : Config) (n : Nat) (v : Byte) : ChecksPass c (readCycles n) v := by
  induction n generalizing v with
  | zero => trivial
  | succ n ih =>
    rw [readCycles, checksPass_append]
    exact ⟨by simp [readCycle, ChecksPass, Micro.Admits], ih _⟩

theorem signal_readCycles {c : Config} (hc : c.wellFormed = true) (n : Nat) (v : Byte) (T : CtlSignal) :
    signal c (shadowAfter c (readCycles n) v) T = if T = .nre ∧ n ≠ 0 then true else signal c v T := by
  induction n generalizing v with
  | zero => simp [readCycles, shadowAfter]
  | succ n ih =>
    rw [readCycles, shadowAfter_append, ih]
    by_cases hT : T = .nre <;> simp [shadowAfter, readCycle, Micro.shadowAfter, signal_setSignal hc, hT]

/-- Each operation of the engine checks its own preconditions and nothing else (R162, R165, R168, R171). -/
@[simp] theorem checksPass_cmdlatchSteps {c : Config} {cmd v : Byte} :
    ChecksPass c (cmdlatchSteps cmd) v ↔ passes c cmdlatchPre v = true := by
  simp [cmdlatchSteps, ChecksPass, Micro.Admits]

@[simp] theorem checksPass_addrlatchSteps {c : Config} {bytes : List Byte} {v : Byte} :
    ChecksPass c (addrlatchSteps bytes) v ↔ passes c addrlatchPre v = true := by
  simp [addrlatchSteps, ChecksPass, Micro.Admits, Micro.shadowAfter, checksPass_addressLoop]

@[simp] theorem checksPass_latchoutSteps {c : Config} {n : Nat} {v : Byte} :
    ChecksPass c (latchoutSteps n) v ↔ passes c latchoutPre v = true := by
  simp [latchoutSteps, ChecksPass, Micro.Admits, Micro.shadowAfter, checksPass_readCycles]

@[simp] theorem checksPass_busypollSteps {c : Config} {v : Byte} :
    ChecksPass c (busypollSteps c) v ↔ passes c (busypollPre c) v = true := by
  simp [busypollSteps, ChecksPass, Micro.Admits]

theorem signal_after_cmdlatchSteps {c : Config} (hc : c.wellFormed = true) (cmd v : Byte) (T : CtlSignal) :
    signal c (shadowAfter c (cmdlatchSteps cmd) v) T =
      if T = .cle then false else if T = .nwe then true else signal c v T := by
  cases T <;> simp [cmdlatchSteps, shadowAfter, Micro.shadowAfter, signal_setSignal hc]

theorem signal_after_addrlatchSteps {c : Config} (hc : c.wellFormed = true) (bytes : List Byte) (v : Byte)
    (T : CtlSignal) :
    signal c (shadowAfter c (addrlatchSteps bytes) v) T =
      if T = .ale then false else if T = .nwe ∧ bytes ≠ [] then true else signal c v T := by
  have hlast (u : Byte) : shadowAfter c [.lower .ale] u = setSignal c u .ale false := rfl
  have hfirst : shadowAfter c [.check addrlatchPre, .raise .ale] v = setSignal c v .ale true := rfl
  rw [addrlatchSteps, shadowAfter_append, shadowAfter_append, hlast, hfirst, signal_setSignal hc, signal_addressLoop hc,
    signal_setSignal hc]
  split <;> rfl

theorem signal_after_latchoutSteps {c : Config} (hc : c.wellFormed = true) (n : Nat) (v : Byte) (T : CtlSignal) :
    signal c (shadowAfter c (latchoutSteps n) v) T = if T = .nre ∧ n ≠ 0 then true else signal c v T := by
  rw [latchoutSteps, shadowAfter_append, shadowAfter_append]
  exact signal_readCycles hc n v T

@[simp] theorem shadowAfter_busypollSteps (c : Config) (v : Byte) : shadowAfter c (busypollSteps c) v = v := rfl

/-! ### The checks of the macros: from nCE=0 and nRE=1 they all pass -/

theorem checksPass_identifyProgram {c : Config} (hc : c.wellFormed = true) {v : Byte} (h : passes c cmdlatchPre v = true) :
    ChecksPass c identifyProgram v := by
  obtain ⟨hce, hre⟩ := passes_cmdlatch.1 h
  simp [identifyProgram, ChecksPass, Micro.Admits, passes_addrlatch, passes_latchout, passes_cmdlatch,
    signal_after_cmdlatchSteps hc, signal_after_addrlatchSteps hc, hce, hre]

theorem checksPass_pagereadSteps {c : Config} (hc : c.wellFormed = true) {page : Word} {v : Byte}
    (h : passes c cmdlatchPre v = true) : ChecksPass c (pagereadSteps c page) v := by
  obtain ⟨hce, hre⟩ := passes_cmdlatch.1 h
  simp [pagereadSteps, passes_addrlatch, passes_latchout, passes_cmdlatch, passes_busypoll, mapCycles,
    signal_after_cmdlatchSteps hc, signal_after_addrlatchSteps hc, hce, hre]

/-- A page read leaves nCE=0 and nRE=1, from which the next one starts (R213). -/
theorem passes_after_pagereadSteps {c : Config} (hc : c.wellFormed = true) {page : Word} {v : Byte}
    (h : passes c cmdlatchPre v = true) : passes c cmdlatchPre (shadowAfter c (pagereadSteps c page) v) = true := by
  obtain ⟨hce, hre⟩ := passes_cmdlatch.1 h
  simp [pagereadSteps, passes_cmdlatch, signal_after_cmdlatchSteps hc, signal_after_addrlatchSteps hc,
    signal_after_latchoutSteps hc, hce, hre]

theorem checksPass_dumpSteps {c : Config} (hc : c.wellFormed = true) {i n : Nat} {v : Byte}
    (h : passes c cmdlatchPre v = true) : ChecksPass c (dumpSteps c i n) v := by
  induction n generalizing i v with
  | zero => trivial
  | succ n ih =>
    rw [dumpSteps, checksPass_append]
    exact ⟨checksPass_pagereadSteps hc h, trivial, ih (passes_after_pagereadSteps hc h)⟩

/-- ERASE after its write of nWP (R218). -/
theorem checksPass_eraseProgram_drop_two {c : Config} (hc : c.wellFormed = true) {block : Word} {v : Byte}
    (h : passes c cmdlatchPre v = true) : ChecksPass c ((eraseProgram c block).drop 2) v := by
  obtain ⟨hce, hre⟩ := passes_cmdlatch.1 h
  simp [eraseProgram, ChecksPass, Micro.Admits, passes_addrlatch, passes_latchout, passes_cmdlatch, passes_busypoll,
    rowCycles, mapCycles, signal_after_cmdlatchSteps hc, signal_after_addrlatchSteps hc, hce, hre]

/-! ### The listed signals -/

theorem refuses_cmdlatch {c : Config} {v : Byte} :
    passes c cmdlatchPre v = false ↔ signal c v .nce = true ∨ signal c v .nre = false := by
  rw [← Bool.not_eq_true, passes_cmdlatch, not_and_or, Bool.not_eq_false, Bool.not_eq_true]

theorem refuses_addrlatch {c : Config} {v : Byte} :
    passes c addrlatchPre v = false ↔
      signal c v .nce = true ∨ signal c v .cle = true ∨ signal c v .nre = false := by
  rw [← Bool.not_eq_true, passes_addrlatch, not_and_or, not_and_or, Bool.not_eq_false, Bool.not_eq_false,
    Bool.not_eq_true]

theorem refuses_latchout {c : Config} {v : Byte} :
    passes c latchoutPre v = false ↔
      signal c v .nce = true ∨ signal c v .nwe = false ∨ signal c v .ale = true := by
  rw [← Bool.not_eq_true, passes_latchout, not_and_or, not_and_or, Bool.not_eq_false, Bool.not_eq_false,
    Bool.not_eq_true]

theorem refuses_busypoll {c : Config} {v : Byte} :
    passes c (busypollPre c) v = false ↔ c.busypollNceCheck = true ∧ signal c v .nce = true := by
  rw [← Bool.not_eq_true, passes_busypoll, Classical.not_imp, Bool.not_eq_false]

/-! ### The statement -/

/-- An operation whose checks all pass whatever the control signals never answers PRECONDITION. -/
theorem perform_precondition_iff_false {c : Config} {i : Instr} {s : State} (hf : s.fault = none)
    (hall : ChecksPass c (microProgram c i) s.ctlShadow) (hend : (perform c i s).seq = .idle) :
    (perform c i s).resp.status = .precondition ↔ False :=
  iff_false_intro (runMicros_status_ne_precondition hf hall hend)

/-- DUMP of no page has no check; else its first one is the first page's (R215). -/
theorem perform_dump_precondition_iff {c : Config} (hc : c.wellFormed = true) {s : State} (hf : s.fault = none)
    (hend : (perform c .dump s).seq = .idle) :
    (perform c .dump s).resp.status = .precondition ↔ c.nPages ≠ 0 ∧ passes c cmdlatchPre s.ctlShadow = false := by
  cases hn : c.nPages with
  | zero =>
    have hall : ChecksPass c (microProgram c .dump) s.ctlShadow := by
      rw [microProgram, dumpProgram, hn]
      exact ⟨trivial, trivial, trivial⟩
    simp [perform_precondition_iff_false hf hall hend]
  | succ n =>
    have hprog : perform c .dump s = runMicros c .dump (dumpSteps c 0 (n + 1) ++ [.answer .stream]) 1
        { Locals.start with mark := s.env.stream.length } s := by
      rw [perform, microProgram, dumpProgram, hn]
      rfl
    have hall (hp : passes c cmdlatchPre s.ctlShadow = true) :
        ChecksPass c (dumpSteps c 0 (n + 1) ++ [.answer .stream]) s.ctlShadow :=
      checksPass_append.2 ⟨checksPass_dumpSteps hc hp, trivial, trivial⟩
    rw [hprog] at hend ⊢
    exact (runMicros_check_precondition_iff hf hall hend).trans (and_iff_right (Nat.succ_ne_zero n)).symm

/-- ERASE whose write of nWP the transport refuses ends there (R218, R248). -/
theorem perform_erase_failed {c : Config} {block : Word} {s : State} (hf : s.fault = none)
    (h : s.env.link.ask.1 = false) : (perform c (.erase block) s).resp.status = .transport := by
  have hstop : ∃ t, microEffect c Locals.start s (.raise .nwp) = .stop .transport Locals.start t :=
    ⟨_, by rw [microEffect, drivePin, flushBus, tWrite_failed (by simpa using h), afterCall]⟩
  obtain ⟨t, hstop⟩ := hstop
  have hprog : microProgram c (.erase block) = .check [] :: .raise .nwp :: (eraseProgram c block).drop 2 := rfl
  rw [perform, hprog, runMicros_check_nil hf, runMicros_stop hstop, State.respond_resp]

/-- ERASE whose write of nWP was accepted goes on from the raised nWP (R218). -/
theorem perform_erase_granted {c : Config} {block : Word} {s : State} (hf : s.fault = none)
    (h : s.env.link.ask.1 = true) :
    perform c (.erase block) s =
      runMicros c (.erase block) ((eraseProgram c block).drop 2) 2 Locals.start (drivePinEnd c .nwp true s) := by
  have hprog : microProgram c (.erase block) = .check [] :: .raise .nwp :: (eraseProgram c block).drop 2 := rfl
  rw [perform, hprog, runMicros_check_nil hf, runMicros_go (raise_goes h)]

/-- The write of nWP touches none of the signals that ERASE's first CMDLATCH checks. -/
theorem perform_erase_precondition_iff {c : Config} (hc : c.wellFormed = true) {block : Word} {s : State}
    (hf : s.fault = none) (hend : (perform c (.erase block) s).seq = .idle) :
    (perform c (.erase block) s).resp.status = .precondition ↔
      s.env.link.ask.1 = true ∧ passes c cmdlatchPre s.ctlShadow = false := by
  cases h : s.env.link.ask.1 with
  | false => simp [perform_erase_failed hf h]
  | true =>
    have hshadow : passes c cmdlatchPre (drivePinEnd c .nwp true s).ctlShadow = passes c cmdlatchPre s.ctlShadow := by
      simp [drivePinEnd, passes, cmdlatchPre, signal_setSignal hc]
    rw [perform_erase_granted hf h] at hend ⊢
    have hraised : (drivePinEnd c .nwp true s).fault = none := hf
    rw [← hshadow]
    exact (runMicros_check_precondition_iff hraised (checksPass_eraseProgram_drop_two hc) hend).trans
      (and_iff_right rfl).symm

/-- Settles O27: PRECONDITION is answered at the first check that lists a signal, or not at all. SETPIN, MAP and PROGRAM have no
check, FLUSH, READ and SETDIR one that lists no signal; in family FO the checks after the first CMDLATCH's all pass. -/
theorem preconditionTable : Obligations.PreconditionTable := by
  intro c i s hc hf hend
  cases i with
  | setpin bus pin on => exact perform_precondition_iff_false hf ⟨trivial, trivial, trivial⟩ hend
  | flush bus => exact perform_precondition_iff_false hf ⟨rfl, trivial, trivial, trivial⟩ hend
  | read bus => exact perform_precondition_iff_false hf ⟨rfl, trivial, trivial, trivial⟩ hend
  | setdir dir => exact perform_precondition_iff_false hf ⟨rfl, trivial, trivial, trivial⟩ hend
  | map address => exact perform_precondition_iff_false hf ⟨Status.noConfusion, trivial⟩ hend
  | program => exact perform_precondition_iff_false hf ⟨Status.noConfusion, trivial⟩ hend
  | cmdlatch cmd =>
    have hall (hp : passes c cmdlatchPre s.ctlShadow = true) : ChecksPass c (cmdlatchProgram cmd) s.ctlShadow :=
      checksPass_append.2 ⟨checksPass_cmdlatchSteps.2 hp, trivial, trivial⟩
    exact (runMicros_check_precondition_iff hf hall hend).trans refuses_cmdlatch
  | addrlatch bytes =>
    have hall (hp : passes c addrlatchPre s.ctlShadow = true) : ChecksPass c (addrlatchProgram bytes) s.ctlShadow :=
      checksPass_append.2 ⟨checksPass_addrlatchSteps.2 hp, trivial, trivial⟩
    exact (runMicros_check_precondition_iff hf hall hend).trans refuses_addrlatch
  | latchout n =>
    have hall (hp : passes c latchoutPre s.ctlShadow = true) : ChecksPass c (latchoutProgram n) s.ctlShadow :=
      checksPass_append.2 ⟨checksPass_latchoutSteps.2 hp, trivial, trivial⟩
    exact (runMicros_check_precondition_iff hf hall hend).trans refuses_latchout
  | busypoll =>
    have hall (hp : passes c (busypollPre c) s.ctlShadow = true) : ChecksPass c (busypollProgram c) s.ctlShadow :=
      checksPass_append.2 ⟨checksPass_busypollSteps.2 hp, trivial, trivial⟩
    exact (runMicros_check_precondition_iff hf hall hend).trans refuses_busypoll
  | identify =>
    exact (runMicros_check_precondition_iff hf (checksPass_identifyProgram hc) hend).trans refuses_cmdlatch
  | pageread page =>
    have hall (hp : passes c cmdlatchPre s.ctlShadow = true) : ChecksPass c (pagereadProgram c page) s.ctlShadow :=
      checksPass_append.2 ⟨checksPass_pagereadSteps hc hp, trivial, trivial⟩
    exact (runMicros_check_precondition_iff hf hall hend).trans refuses_cmdlatch
  | dump => exact (perform_dump_precondition_iff hc hf hend).trans (and_congr_right' refuses_cmdlatch)
  | erase block => exact (perform_erase_precondition_iff hc hf hend).trans (and_congr_right' refuses_cmdlatch)

end Sys2Proof.Machine
end

section
/-! PROOFS. The shadow RDY bit (70_reset_and_hazards.md R293). Two states are alike but for it exactly when they are the same state
once the bit is taken out (`State.withoutRdy`). Every named operation on the state commutes with taking it out; so every transport
call and every micro-step of an operation leads alike states to alike states with the same values, because an operation's checks
ask for no level of RDY and its reads take what the device supplies. -/

namespace Sys2Proof.Machine

/-! ### A byte without its RDY bit -/

/-- What setting a bit makes of the other bits does not depend on the RDY bit, be it RDY itself that is set. -/
theorem maskRdy_setBit {c : Config} {u v : Byte} (h : maskRdy c u = maskRdy c v) (i : PinPos) (on : Bool) :
    maskRdy c (setBit u i on) = maskRdy c (setBit v i on) := by
  unfold maskRdy setSignal at *
  by_cases hi : i = c.pin .rdy
  · rw [hi, setBit_setBit_same, setBit_setBit_same, h]
  · rw [setBit_comm u hi, setBit_comm v hi, h]

theorem signal_eq_of_maskRdy {c : Config} (hc : c.wellFormed = true) {S : CtlSignal} (hS : S ≠ .rdy) {u v : Byte}
    (h : maskRdy c u = maskRdy c v) : signal c u S = signal c v S := by
  have hmask (w : Byte) : signal c (maskRdy c w) S = signal c w S :=
    signal_setSignal_of_ne c w false (Config.pin_ne hc hS)
  rw [← hmask u, h, hmask v]

/-- A byte of a bus, on the control bus without its RDY bit. -/
def maskBus (c : Config) : Bus → Byte → Byte
  | .io, v => v
  | .ctl, v => maskRdy c v

theorem maskBus_setBit {c : Config} {bus : Bus} {u v : Byte} (h : maskBus c bus u = maskBus c bus v) (i : PinPos)
    (on : Bool) : maskBus c bus (setBit u i on) = maskBus c bus (setBit v i on) := by
  cases bus with
  | io => exact congrArg (setBit · i on) h
  | ctl => exact maskRdy_setBit h i on

/-! ### A state without its RDY bit -/

/-- The state with the RDY bit taken out of the control shadow, the control latch and the control bytes written. -/
def State.withoutRdy (c : Config) (s : State) : State :=
  { s with
    ctlShadow := maskRdy c s.ctlShadow
    ctlLatch := s.ctlLatch.map (maskRdy c)
    hist := s.hist.map (maskEvent c) }

theorem alikeButRdy_iff {c : Config} {s t : State} : AlikeButRdy c s t ↔ s.withoutRdy c = t.withoutRdy c := by
  constructor
  · rintro ⟨hshadow, hlatch, hhist, hio, hdir, hioLatch, hfault, hseq, hobuf, hresp, henv⟩
    exact State.ext hio hdir hshadow hioLatch hlatch hfault hseq hobuf hresp hhist henv
  · intro h
    obtain ⟨hio, hdir, hshadow, hioLatch, hlatch, hfault, hseq, hobuf, hresp, hhist, henv⟩ := State.ext_iff.1 h
    exact ⟨hshadow, hlatch, hhist, hio, hdir, hioLatch, hfault, hseq, hobuf, hresp, henv⟩

@[simp] theorem State.withoutRdy_setLink (c : Config) (s : State) (l : Link) :
    (s.setLink l).withoutRdy c = (s.withoutRdy c).setLink l := rfl

@[simp] theorem State.withoutRdy_setLines (c : Config) (s : State) (d : Option Dir) :
    (s.setLines d).withoutRdy c = (s.withoutRdy c).setLines d := rfl

@[simp] theorem State.withoutRdy_setDir (c : Config) (s : State) (d : Dir) :
    (s.setDir d).withoutRdy c = (s.withoutRdy c).setDir d := rfl

@[simp] theorem State.withoutRdy_setShadow (c : Config) (s : State) (bus : Bus) (v : Byte) :
    (s.setShadow bus v).withoutRdy c = (s.withoutRdy c).setShadow bus (maskBus c bus v) := by
  cases bus <;> rfl

@[simp] theorem State.withoutRdy_setLatch_some (c : Config) (s : State) (bus : Bus) (v : Byte) :
    (s.setLatch bus (some v)).withoutRdy c = (s.withoutRdy c).setLatch bus (some (maskBus c bus v)) := by
  cases bus <;> rfl

@[simp] theorem State.withoutRdy_setLatch_none (c : Config) (s : State) (bus : Bus) :
    (s.setLatch bus none).withoutRdy c = (s.withoutRdy c).setLatch bus none := by
  cases bus <;> rfl

@[simp] theorem State.withoutRdy_log (c : Config) (s : State) (e : Event) :
    (s.log e).withoutRdy c = (s.withoutRdy c).log (maskEvent c e) := by
  simp [State.withoutRdy, State.log]

@[simp] theorem State.withoutRdy_failCall (c : Config) (s : State) (call : TransportCall) :
    (s.failCall call).withoutRdy c = (s.withoutRdy c).failCall call := by
  simp [State.withoutRdy, State.failCall, maskEvent]

@[simp] theorem State.withoutRdy_setChannel (c : Config) (s : State) (bus : Bus) (ch : Channel) :
    (s.setChannel bus ch).withoutRdy c = (s.withoutRdy c).setChannel bus ch := by
  cases bus <;> rfl

@[simp] theorem maskEvent_writeEvent (c : Config) (bus : Bus) (v : Byte) :
    maskEvent c (writeEvent bus v) = writeEvent bus (maskBus c bus v) := by
  cases bus <;> rfl

/-- A byte read keeps its RDY bit: it is the device's. -/
@[simp] theorem maskEvent_readEvent (c : Config) (bus : Bus) (v : Byte) :
    maskEvent c (readEvent bus v) = readEvent bus v := by
  cases bus <;> rfl

/-! ### Alike states -/

section
variable {c : Config} {s t : State}

theorem AlikeButRdy.maskRdy_ctlShadow : AlikeButRdy c s t → maskRdy c s.ctlShadow = maskRdy c t.ctlShadow
  | ⟨hshadow, _⟩ => hshadow

theorem AlikeButRdy.ioShadow : AlikeButRdy c s t → s.ioShadow = t.ioShadow
  | ⟨_, _, _, hio, _⟩ => hio

theorem AlikeButRdy.fault : AlikeButRdy c s t → s.fault = t.fault
  | ⟨_, _, _, _, _, _, hfault, _⟩ => hfault

theorem AlikeButRdy.seq : AlikeButRdy c s t → s.seq = t.seq
  | ⟨_, _, _, _, _, _, _, hseq, _⟩ => hseq

theorem AlikeButRdy.obuf : AlikeButRdy c s t → s.obuf = t.obuf
  | ⟨_, _, _, _, _, _, _, _, hobuf, _⟩ => hobuf

theorem AlikeButRdy.env : AlikeButRdy c s t → s.env = t.env
  | ⟨_, _, _, _, _, _, _, _, _, _, henv⟩ => henv

theorem AlikeButRdy.maskBus_shadow (h : AlikeButRdy c s t) (bus : Bus) :
    maskBus c bus (s.shadow bus) = maskBus c bus (t.shadow bus) := by
  cases bus with
  | io => exact h.ioShadow
  | ctl => exact h.maskRdy_ctlShadow

theorem AlikeButRdy.channel (h : AlikeButRdy c s t) (bus : Bus) : s.channel bus = t.channel bus := by
  cases bus with
  | io => exact congrArg Env.dioIn h.env
  | ctl => exact congrArg Env.ctlIn h.env

/-- What commutes with taking the RDY bit out keeps states alike. -/
theorem AlikeButRdy.map (h : AlikeButRdy c s t) (f : State → State)
    (hf : ∀ u : State, (f u).withoutRdy c = f (u.withoutRdy c)) : AlikeButRdy c (f s) (f t) :=
  alikeButRdy_iff.2 (by rw [hf, hf, alikeButRdy_iff.1 h])

theorem AlikeButRdy.setObuf (h : AlikeButRdy c s t) (bytes : List Byte) :
    AlikeButRdy c (s.setObuf bytes) (t.setObuf bytes) :=
  h.map (State.setObuf · bytes) fun _ => rfl

theorem AlikeButRdy.deliver (h : AlikeButRdy c s t) : AlikeButRdy c s.deliver t.deliver :=
  h.map State.deliver fun _ => rfl

theorem AlikeButRdy.park (h : AlikeButRdy c s t) (op : Instr) (k : Nat) (loc : Locals) :
    AlikeButRdy c (s.park op k loc) (t.park op k loc) :=
  h.map (State.park · op k loc) fun _ => rfl

theorem AlikeButRdy.respond (h : AlikeButRdy c s t) (r : Response) : AlikeButRdy c (s.respond r) (t.respond r) :=
  h.map (State.respond · r) fun _ => rfl

theorem AlikeButRdy.afterSampling (h : AlikeButRdy c s t) : AlikeButRdy c s.afterSampling t.afterSampling :=
  h.map State.afterSampling fun _ => rfl

theorem AlikeButRdy.setProgram (h : AlikeButRdy c s t) (rest : List Descriptor) :
    AlikeButRdy c { s with env := { s.env with program := rest } } { t with env := { t.env with program := rest } } :=
  h.map (fun u => { u with env := { u.env with program := rest } }) fun _ => rfl

/-- A reset state keeps nothing of the state before it but the other agents (R282). -/
theorem AlikeButRdy.sessionStart (h : AlikeButRdy c s t) : AlikeButRdy c s.sessionStart t.sessionStart := by
  rw [State.sessionStart, State.sessionStart, h.env]
  exact alikeButRdy_iff.2 rfl

theorem AlikeButRdy.log (h : AlikeButRdy c s t) (e : Event) : AlikeButRdy c (s.log e) (t.log e) :=
  alikeButRdy_iff.2 (by simp [alikeButRdy_iff.1 h])

theorem AlikeButRdy.setShadow (h : AlikeButRdy c s t) {bus : Bus} {u v : Byte} (hv : maskBus c bus u = maskBus c bus v) :
    AlikeButRdy c (s.setShadow bus u) (t.setShadow bus v) :=
  alikeButRdy_iff.2 (by simp [alikeButRdy_iff.1 h, hv])

end

/-! ### The transport calls -/

/-- Both calls succeed with the same value, or both fail, and the states they leave are alike. -/
inductive CallResult.Alike {α : Type} (c : Config) : CallResult α → CallResult α → Prop
  | done (a : α) {s t : State} (h : AlikeButRdy c s t) : Alike c (.done a s) (.done a t)
  | failed {s t : State} (h : AlikeButRdy c s t) : Alike c (.failed s) (.failed t)

theorem tWrite_alike {c : Config} {s t : State} (h : AlikeButRdy c s t) {bus : Bus} {u v : Byte}
    (hv : maskBus c bus u = maskBus c bus v) : (tWrite bus u s).Alike c (tWrite bus v t) := by
  have heq := alikeButRdy_iff.1 h
  cases hs : s.env.link.ask.1 with
  | true =>
    rw [tWrite_granted hs, tWrite_granted (h.env ▸ hs), h.env]
    exact .done () (alikeButRdy_iff.2 (by simp [heq, hv]))
  | false =>
    rw [tWrite_failed hs, tWrite_failed (h.env ▸ hs), h.env]
    exact .failed (alikeButRdy_iff.2 (by simp [heq]))

/-- The byte read is the device's, whatever the shadow (R293). -/
theorem tRead_alike {c : Config} {s t : State} (h : AlikeButRdy c s t) (bus : Bus) :
    (tRead bus s).Alike c (tRead bus t) := by
  have heq := alikeButRdy_iff.1 h
  cases hs : s.env.link.ask.1 with
  | true =>
    rw [tRead_granted hs, tRead_granted (h.env ▸ hs), h.env, h.channel]
    exact .done _ (alikeButRdy_iff.2 (by simp [heq]))
  | false =>
    rw [tRead_failed hs, tRead_failed (h.env ▸ hs), h.env]
    exact .failed (alikeButRdy_iff.2 (by simp [heq]))

theorem tConfig_alike {c : Config} {s t : State} (h : AlikeButRdy c s t) (d : Dir) :
    (tConfig d s).Alike c (tConfig d t) := by
  have heq := alikeButRdy_iff.1 h
  cases hs : s.env.link.ask.1 with
  | true =>
    rw [tConfig_granted hs, tConfig_granted (h.env ▸ hs), h.env]
    exact .done () (alikeButRdy_iff.2 (by simp [heq, maskEvent]))
  | false =>
    rw [tConfig_failed hs, tConfig_failed (h.env ▸ hs), h.env]
    exact .failed (alikeButRdy_iff.2 (by simp [heq]))

/-- A new shadow byte and a flush of its bus: `raise_pin`, `lower_pin`, `drive_io` (R23). -/
theorem flushBus_setShadow_alike {c : Config} {s t : State} (h : AlikeButRdy c s t) {bus : Bus} {u v : Byte}
    (hv : maskBus c bus u = maskBus c bus v) :
    (flushBus bus (s.setShadow bus u)).Alike c (flushBus bus (t.setShadow bus v)) :=
  tWrite_alike (h.setShadow hv) ((h.setShadow hv).maskBus_shadow bus)

/-! ### Micro-steps -/

/-- Both micro-steps go the same way, with the same variables and the same answer, and the states they leave are alike. -/
inductive Effect.Alike (c : Config) : Effect → Effect → Prop
  | go (loc : Locals) {s t : State} (h : AlikeButRdy c s t) : Alike c (.go loc s) (.go loc t)
  | again (loc : Locals) {s t : State} (h : AlikeButRdy c s t) : Alike c (.again loc s) (.again loc t)
  | finish (r : Response) {s t : State} (h : AlikeButRdy c s t) : Alike c (.finish r s) (.finish r t)
  | stop (status : Status) (loc : Locals) {s t : State} (h : AlikeButRdy c s t) :
    Alike c (.stop status loc s) (.stop status loc t)

/-- A micro-step that asks for no level of RDY. -/
def Micro.ignoresRdy : Micro → Bool
  | .check pre => pre.all (·.1 != .rdy)
  | _ => true

section
variable {c : Config} {s t : State}

theorem afterCall_alike {α : Type} {loc : Locals} {r r' : CallResult α} {next next' : α → State → Effect}
    (hr : r.Alike c r') (hn : ∀ a u v, AlikeButRdy c u v → (next a u).Alike c (next' a v)) :
    (afterCall loc r next).Alike c (afterCall loc r' next') := by
  cases hr with
  | done a h => exact hn a _ _ h
  | failed h => exact .stop .transport loc h

theorem afterPoll_alike (h : AlikeButRdy c s t) (loc : Locals) (v : Byte) :
    (afterPoll c loc v s).Alike c (afterPoll c loc v t) := by
  unfold afterPoll
  split
  · exact .go _ h
  · split
    · exact .stop _ loc h
    · exact .again _ h

theorem AlikeButRdy.dumped (h : AlikeButRdy c s t) (loc : Locals) : dumped loc s = dumped loc t := by
  rw [Machine.dumped, Machine.dumped, h.env]

theorem AlikeButRdy.errorData (h : AlikeButRdy c s t) (op : Instr) (loc : Locals) :
    errorData op loc s = errorData op loc t := by
  rw [Machine.errorData, Machine.errorData, h.dumped]

theorem AlikeButRdy.response (h : AlikeButRdy c s t) (loc : Locals) (a : Answer) :
    response c loc s a = response c loc t a := by
  cases a <;> simp [Machine.response, h.dumped, h.obuf]

/-- The precondition test of R161, when it lists no RDY. -/
theorem AlikeButRdy.passes (hc : c.wellFormed = true) (h : AlikeButRdy c s t) {pre : List (CtlSignal × Bool)}
    (hpre : (Micro.check pre).ignoresRdy = true) : passes c pre s.ctlShadow = passes c pre t.ctlShadow := by
  rw [Bool.eq_iff_iff, Machine.passes, Machine.passes, List.all_eq_true, List.all_eq_true]
  refine forall₂_congr fun p hp => ?_
  have hne : p.1 ≠ .rdy := by simpa using List.all_eq_true.1 hpre p hp
  rw [signal_eq_of_maskRdy hc hne h.maskRdy_ctlShadow]

theorem microEffect_alike (hc : c.wellFormed = true) (h : AlikeButRdy c s t) (loc : Locals) {m : Micro}
    (hm : m.ignoresRdy = true) : (microEffect c loc s m).Alike c (microEffect c loc t m) := by
  have hdrive (S : CtlSignal) (level : Bool) : (drivePin c S level s).Alike c (drivePin c S level t) :=
    flushBus_setShadow_alike h (maskRdy_setBit h.maskRdy_ctlShadow (c.pin S) level)
  cases m with
  | check pre =>
    rw [microEffect, microEffect, h.fault, h.passes hc hm]
    split
    · exact .stop _ loc h
    · split
      · exact .go loc h
      · exact .stop _ loc h
  | assign bus pin on => exact .go loc (h.setShadow (maskBus_setBit (h.maskBus_shadow bus) pin on))
  | flush bus => exact afterCall_alike (tWrite_alike h (h.maskBus_shadow bus)) fun _ _ _ hu => .go loc hu
  | sample bus => exact afterCall_alike (tRead_alike h bus) fun _ _ _ hu => .go _ hu
  | config d => exact afterCall_alike (tConfig_alike h d) fun _ _ _ hu => .go loc hu
  | raise S => exact afterCall_alike (hdrive S true) fun _ _ _ hu => .go loc hu
  | lower S => exact afterCall_alike (hdrive S false) fun _ _ _ hu => .go loc hu
  | drive b => exact afterCall_alike (flushBus_setShadow_alike h rfl) fun _ _ _ hu => .go loc hu
  | delay k => exact .go loc (h.log _)
  | turnIn => exact afterCall_alike (tConfig_alike (h.setObuf []) .input) fun _ _ _ hu => .go loc hu
  | fetchByte => exact afterCall_alike (tRead_alike h .io) fun b u v hu => .go loc (hu.obuf ▸ hu.setObuf _)
  | poll => exact afterCall_alike (tRead_alike h .ctl) fun b u v hu => afterPoll_alike hu loc b
  | openStream =>
    rw [microEffect, microEffect, h.env]
    exact .go _ h
  | deliver => exact .go loc h.deliver
  | answer a =>
    rw [microEffect, microEffect, h.response]
    exact .finish _ h

end

/-! ### Operations -/

theorem readCycles_ignoresRdy (n : Nat) : (readCycles n).all Micro.ignoresRdy = true := by
  induction n with
  | zero => rfl
  | succ n ih => exact ih

theorem addressLoop_ignoresRdy (bytes : List Byte) : (bytes.flatMap addressSteps).all Micro.ignoresRdy = true := by
  induction bytes with
  | nil => rfl
  | cons b bs ih => exact ih

theorem latchoutSteps_ignoresRdy (n : Nat) : (latchoutSteps n).all Micro.ignoresRdy = true := by
  simp only [latchoutSteps, List.all_append, readCycles_ignoresRdy]
  rfl

theorem addrlatchSteps_ignoresRdy (bytes : List Byte) : (addrlatchSteps bytes).all Micro.ignoresRdy = true := by
  simp only [addrlatchSteps, List.all_append, addressLoop_ignoresRdy]
  rfl

theorem busypollSteps_ignoresRdy (c : Config) : (busypollSteps c).all Micro.ignoresRdy = true := by
  unfold busypollSteps busypollPre
  split <;> rfl

theorem pagereadSteps_ignoresRdy (c : Config) (page : Word) : (pagereadSteps c page).all Micro.ignoresRdy = true := by
  simp only [pagereadSteps, List.all_append, addrlatchSteps_ignoresRdy, busypollSteps_ignoresRdy,
    latchoutSteps_ignoresRdy]
  rfl

theorem dumpSteps_ignoresRdy (c : Config) (i n : Nat) : (dumpSteps c i n).all Micro.ignoresRdy = true := by
  induction n generalizing i with
  | zero => rfl
  | succ n ih =>
    rw [dumpSteps, List.all_append, pagereadSteps_ignoresRdy, List.all_append, ih]
    rfl

/-- No operation checks the level of RDY (R162, R165, R168, R171): a busy-poll read tests a byte of the device. -/
theorem microProgram_ignoresRdy (c : Config) (op : Instr) : (microProgram c op).all Micro.ignoresRdy = true := by
  cases op with
  | addrlatch bytes => simp [microProgram, addrlatchProgram, addrlatchSteps_ignoresRdy, Micro.ignoresRdy]
  | latchout n => simp [microProgram, latchoutProgram, latchoutSteps_ignoresRdy, Micro.ignoresRdy]
  | busypoll => simp [microProgram, busypollProgram, busypollSteps_ignoresRdy, Micro.ignoresRdy]
  | pageread page => simp [microProgram, pagereadProgram, pagereadSteps_ignoresRdy, Micro.ignoresRdy]
  | dump => simp [microProgram, dumpProgram, dumpSteps_ignoresRdy, Micro.ignoresRdy]
  | erase block =>
    simp only [microProgram, eraseProgram, List.all_append, busypollSteps_ignoresRdy]
    rfl
  | _ => rfl

section
variable {c : Config} {s t : State}

theorem runMicros_alike (hc : c.wellFormed = true) (op : Instr) {ms : List Micro} (hms : ms.all Micro.ignoresRdy = true)
    (k : Nat) (loc : Locals) (h : AlikeButRdy c s t) :
    AlikeButRdy c (runMicros c op ms k loc s) (runMicros c op ms k loc t) := by
  induction ms generalizing k loc s t with
  | nil => exact h.park op k loc
  | cons m ms ih =>
    rw [List.all_cons, Bool.and_eq_true] at hms
    obtain ⟨hm, hms⟩ := hms
    have heff := microEffect_alike hc h loc hm
    rw [runMicros, runMicros]
    generalize microEffect c loc s m = e, microEffect c loc t m = f at heff
    cases heff with
    | go l hu => exact ih hms (k + 1) l hu
    | again l hu => exact hu.park op k l
    | finish r hu => exact hu.respond r
    | stop status l hu =>
      simp only [hu.errorData]
      exact hu.respond _

theorem perform_alike (hc : c.wellFormed = true) (i : Instr) (h : AlikeButRdy c s t) :
    AlikeButRdy c (perform c i s) (perform c i t) :=
  runMicros_alike hc i (microProgram_ignoresRdy c i) 0 Locals.start h

/-- One micro-step is the run of a list of one (R50). -/
theorem microStep_eq_runMicros {op : Instr} {k : Nat} {loc : Locals} {m : Micro} (h : s.seq = .run op k loc)
    (hm : (microProgram c op)[k]? = some m) : microStep c s = runMicros c op [m] k loc s := by
  cases he : microEffect c loc s m <;> simp [microStep, h, hm, runMicros, he]

theorem microStep_pastEnd {op : Instr} {k : Nat} {loc : Locals} (h : s.seq = .run op k loc)
    (hm : (microProgram c op)[k]? = none) : microStep c s = s := by
  simp only [microStep, h, hm]

theorem microStep_idle (h : s.seq = .idle) : microStep c s = s := by
  simp only [microStep, h]

theorem microStep_alike (hc : c.wellFormed = true) (h : AlikeButRdy c s t) :
    AlikeButRdy c (microStep c s) (microStep c t) := by
  cases hs : s.seq with
  | idle => rwa [microStep_idle hs, microStep_idle (h.seq ▸ hs)]
  | run op k loc =>
    cases hk : (microProgram c op)[k]? with
    | none => rwa [microStep_pastEnd hs hk, microStep_pastEnd (h.seq ▸ hs) hk]
    | some m =>
      have hm : m.ignoresRdy = true := List.all_eq_true.1 (microProgram_ignoresRdy c op) m (List.mem_of_getElem? hk)
      rw [microStep_eq_runMicros hs hk, microStep_eq_runMicros (h.seq ▸ hs) hk]
      exact runMicros_alike hc op (by simp [hm]) k loc h

/-! ### Turns, resets and steps -/

/-- Both machines take the same turn, in alike states. -/
inductive Turn.Alike (c : Config) : Turn → Turn → Prop
  | go (op : Instr) (k : Nat) (loc : Locals) {s t : State} (h : AlikeButRdy c s t) : Alike c (.go op k loc s) (.go op k loc t)
  | issue (i : Instr) {s t : State} (h : AlikeButRdy c s t) : Alike c (.issue i s) (.issue i t)
  | illegal (e : DecodeError) {s t : State} (h : AlikeButRdy c s t) : Alike c (.illegal e s) (.illegal e t)
  | wait {s t : State} (h : AlikeButRdy c s t) : Alike c (.wait s) (.wait t)

theorem turn_alike (h : AlikeButRdy c s t) : (turn c s).Alike c (turn c t) := by
  cases hs : s.seq with
  | run op k loc =>
    rw [turn_run hs, turn_run (h.seq ▸ hs)]
    exact .go op k loc h
  | idle =>
    have ht : t.seq = .idle := h.seq ▸ hs
    cases hp : s.env.program with
    | nil =>
      rw [turn_wait hs hp, turn_wait ht (h.env ▸ hp)]
      exact .wait h
    | cons W rest =>
      cases hd : decode c W with
      | ok i =>
        rw [turn_issue hs hp hd, turn_issue ht (h.env ▸ hp) hd]
        exact .issue i (h.setProgram rest)
      | error e =>
        rw [turn_illegal hs hp hd, turn_illegal ht (h.env ▸ hp) hd]
        exact .illegal e (h.setProgram rest)

theorem advance_alike (hc : c.wellFormed = true) (h : AlikeButRdy c s t) :
    AlikeButRdy c (advance c s) (advance c t) := by
  have hturn := turn_alike h
  rw [advance, advance]
  generalize turn c s = x, turn c t = y at hturn
  cases hturn with
  | go op k loc hu => exact microStep_alike hc hu
  | issue i hu => exact hu.park i 0 Locals.start
  | illegal e hu => exact hu.respond _
  | wait hu => exact hu

theorem advances_alike (hc : c.wellFormed = true) (n : Nat) (h : AlikeButRdy c s t) :
    AlikeButRdy c (advances c n s) (advances c n t) := by
  induction n generalizing s t with
  | zero => exact h
  | succ n ih => exact ih (advance_alike hc h)

theorem resetAfter_alike (hc : c.wellFormed = true) (n : Nat) (h : AlikeButRdy c s t) :
    AlikeButRdy c (resetAfter c n s) (resetAfter c n t) :=
  (advances_alike hc n h).sessionStart

theorem resume_alike (hc : c.wellFormed = true) {op : Instr} {k : Nat} {loc : Locals} {s' : State}
    (h : AlikeButRdy c s t) (hs : resume c op k loc s = .next s') :
    ∃ t', resume c op k loc t = .next t' ∧ AlikeButRdy c s' t' := by
  have hms : ((microProgram c op).drop k).all Micro.ignoresRdy = true :=
    List.all_eq_true.2 fun m hm => List.all_eq_true.1 (microProgram_ignoresRdy c op) m (List.mem_of_mem_drop hm)
  unfold resume at hs ⊢
  split at hs
  · cases hs
  · next m ms hk =>
    cases hs
    rw [hk] at hms
    exact ⟨_, rfl, runMicros_alike hc op hms k loc h⟩

end

theorem exec_alike {i : Instr} {s t s' : State} (h : AlikeButRdy Config.standard s t) (hs : exec i s = .next s') :
    ∃ t', exec i t = .next t' ∧ AlikeButRdy Config.standard s' t' := by
  obtain ⟨hidle, rfl⟩ := exec_next hs
  exact ⟨_, exec_idle i (h.seq ▸ hidle), perform_alike standard_wellFormed i h⟩

theorem resetDue_eq {c : Config} {s t : State} (h : AlikeButRdy c s t) : resetDue s = resetDue t := by
  rw [resetDue, resetDue, h.env]

theorem step_alike {s t s' : State} (h : AlikeButRdy Config.standard s t) (hs : step s = .next s') :
    ∃ t', step t = .next t' ∧ AlikeButRdy Config.standard s' t' := by
  have hdue := resetDue_eq h
  have hturn := turn_alike h.afterSampling
  unfold step at hs ⊢
  rw [← hdue]
  cases hr : resetDue s with
  | some n =>
    rw [hr] at hs
    cases hs
    exact ⟨_, rfl, resetAfter_alike standard_wellFormed n h.afterSampling⟩
  | none =>
    rw [hr] at hs
    generalize turn Config.standard s.afterSampling = x, turn Config.standard t.afterSampling = y at hturn hs
    cases hturn with
    | go op k loc hu => exact resume_alike standard_wellFormed hu hs
    | issue i hu => exact exec_alike hu hs
    | illegal e hu =>
      cases hs
      exact ⟨_, rfl, hu.respond _⟩
    | wait hu =>
      cases hs
      exact ⟨_, rfl, hu⟩

/-- Settles O48: a step and an operation lead alike states to alike states, and the RDY pin carries no latch. -/
theorem rdyShadowInvisible : Obligations.RdyShadowInvisible :=
  ⟨fun _ _ _ => step_alike, fun _ _ _ _ => exec_alike, fun s => pinLevel_rdy Config.standard s⟩

end Sys2Proof.Machine
end

section
/-! PROOFS. Decoder and encoder (30_encoding.md): decoding an encoded operation gives it back, a legal descriptor is the encoding of
what it decodes to, and the match and mask constants of R111 select the operation. The one fact about words behind the last two:
a word is its constant part put before its operand bits. -/

namespace Sys2Proof

/-! ### Decoding an encoded operation (R120) -/

theorem decode_encode_read (c : Config) (bus : Bus) : decode c (encode (.read bus)) = .ok (.read bus) := by
  have hop : (encode (.read bus)).extractLsb' 56 8 = 0x13#8 := opcode_encode _
  have hbit : (encode (.read bus))[0] = bitOfBus bus := bit_operand _ _
  have hres : (encode (.read bus)).extractLsb' 1 55 = 0#55 := bit_reserved _ _
  simp [decode, hop, reservedZero_of_eq hres, hbit]

theorem decode_encode_setdir (c : Config) (dir : Dir) : decode c (encode (.setdir dir)) = .ok (.setdir dir) := by
  have hop : (encode (.setdir dir)).extractLsb' 56 8 = 0x14#8 := opcode_encode _
  have hbit : (encode (.setdir dir))[0] = bitOfDir dir := bit_operand _ _
  have hres : (encode (.setdir dir)).extractLsb' 1 55 = 0#55 := bit_reserved _ _
  simp [decode, hop, reservedZero_of_eq hres, hbit]

theorem decode_encode_cmdlatch (c : Config) (cmd : Byte) : decode c (encode (.cmdlatch cmd)) = .ok (.cmdlatch cmd) := by
  have hop : (encode (.cmdlatch cmd)).extractLsb' 56 8 = 0x21#8 := opcode_encode _
  have hres : (encode (.cmdlatch cmd)).extractLsb' 8 48 = 0#48 := byte_reserved _ _
  have harg : (encode (.cmdlatch cmd)).extractLsb' 0 8 = cmd := byte_operand _ _
  simp [decode, hop, reservedZero_of_eq hres, harg]

/-- The count and the five slots of format A give the list back (R107, R109). -/
theorem decodeAddresses_encode {bytes : List Byte} (h : bytes.length ≤ 5) :
    decodeAddresses (encode (.addrlatch bytes)) = .ok (.addrlatch bytes) := by
  have hn : (BitVec.ofNat 3 bytes.length).toNat = bytes.length := by
    rw [BitVec.toNat_ofNat]
    omega
  obtain ⟨htake, hdrop⟩ := addrlatch_slots h
  rw [decodeAddresses, addrlatch_count, addrlatch_bytes, hn, if_neg (by omega), if_pos hdrop, htake]

theorem decode_encode_addrlatch (c : Config) {bytes : List Byte} (h : bytes.length ≤ 5) :
    decode c (encode (.addrlatch bytes)) = .ok (.addrlatch bytes) := by
  have hop : (encode (.addrlatch bytes)).extractLsb' 56 8 = 0x22#8 := opcode_encode _
  simp [decode, hop, addrlatch_reserved, decodeAddresses_encode h]

theorem decode_encode_latchout (c : Config) (n : Word) : decode c (encode (.latchout n)) = .ok (.latchout n) := by
  have hop : (encode (.latchout n)).extractLsb' 56 8 = 0x23#8 := opcode_encode _
  have hres : (encode (.latchout n)).extractLsb' 32 24 = 0#24 := word_reserved _ _
  have harg : (encode (.latchout n)).extractLsb' 0 32 = n := word_operand _ _
  simp [decode, hop, reservedZero_of_eq hres, harg]

theorem decode_encode_busypoll (c : Config) : decode c (encode .busypoll) = .ok .busypoll := by
  have hop : (encode .busypoll).extractLsb' 56 8 = 0x24#8 := opcode_encode _
  have hres : (encode .busypoll).extractLsb' 0 56 = 0#56 := zero_reserved _
  simp [decode, hop, reservedZero_of_eq hres]

theorem decode_encode_identify {c : Config} (hc : c.hasFlashMacros = true) :
    decode c (encode .identify) = .ok .identify := by
  have hop : (encode .identify).extractLsb' 56 8 = 0x51#8 := opcode_encode _
  have hres : (encode .identify).extractLsb' 0 56 = 0#56 := zero_reserved _
  simp [decode, hop, macroOnly, hc, reservedZero_of_eq hres]

theorem decode_encode_pageread {c : Config} (hc : c.hasFlashMacros = true) (page : Word) :
    decode c (encode (.pageread page)) = .ok (.pageread page) := by
  have hop : (encode (.pageread page)).extractLsb' 56 8 = 0x52#8 := opcode_encode _
  have hres : (encode (.pageread page)).extractLsb' 32 24 = 0#24 := word_reserved _ _
  have harg : (encode (.pageread page)).extractLsb' 0 32 = page := word_operand _ _
  simp [decode, hop, macroOnly, hc, reservedZero_of_eq hres, harg]

theorem decode_encode_erase {c : Config} (hc : c.hasFlashMacros = true) (block : Word) :
    decode c (encode (.erase block)) = .ok (.erase block) := by
  have hop : (encode (.erase block)).extractLsb' 56 8 = 0x54#8 := opcode_encode _
  have hres : (encode (.erase block)).extractLsb' 32 24 = 0#24 := word_reserved _ _
  have harg : (encode (.erase block)).extractLsb' 0 32 = block := word_operand _ _
  simp [decode, hop, macroOnly, hc, reservedZero_of_eq hres, harg]

/-- Settles O12: the fields of each format, read back, are the operands they were written from. -/
theorem decodeOfEncodeIsIdentity : Obligations.DecodeOfEncodeIsIdentity := by
  intro c i h
  cases i with
  | setpin bus pin on => exact decode_encode_setpin c bus pin on
  | flush bus => exact decode_encode_flush c bus
  | read bus => exact decode_encode_read c bus
  | setdir dir => exact decode_encode_setdir c dir
  | cmdlatch cmd => exact decode_encode_cmdlatch c cmd
  | addrlatch bytes => exact decode_encode_addrlatch c (of_decide_eq_true h)
  | latchout n => exact decode_encode_latchout c n
  | busypoll => exact decode_encode_busypoll c
  | map address => exact decode_encode_map c address
  | identify => exact decode_encode_identify h
  | pageread page => exact decode_encode_pageread h page
  | dump => exact decode_encode_dump h
  | erase block => exact decode_encode_erase h block
  | program => exact decode_encode_program h

/-! ### A word put together from its fields -/

/-- A word is its high part before its low part. -/
theorem append_extract {u v : Nat} (W : BitVec (u + v)) : W.extractLsb' v u ++ W.extractLsb' 0 v = W :=
  (BitVec.extractLsb'_append_extractLsb'_eq_extractLsb' (Nat.zero_add v).symm).trans (extract_all W)

/-- A word whose operation code is `op` and whose reserved bits are 0 is these before its operand bits (R101). -/
theorem eq_of_fields {r v : Nat} {W : BitVec (8 + r + v)} {op : Byte} (hop : W.extractLsb' (v + r) 8 = op)
    (hres : W.extractLsb' v r = 0#r) : W = op ++ 0#r ++ W.extractLsb' 0 v := by
  rw [← hop, ← hres, BitVec.extractLsb'_append_extractLsb'_eq_extractLsb' rfl, append_extract]

/-- Format Z: a word whose operation code is `op` and whose other bits are 0 (R102). -/
theorem eq_of_fields_zero {W : Descriptor} {op : Byte} (hop : W.extractLsb' 56 8 = op)
    (hres : W.extractLsb' 0 56 = 0#56) : W = op ++ 0#56 := by
  rw [← hop, ← hres, append_extract]

/-- A word that a mask without the low v bits takes to `x ++ 0` has x as its high part (R111). -/
theorem eq_of_mask {u v : Nat} {W : BitVec (u + v)} {x : BitVec u}
    (h : W &&& (BitVec.allOnes u ++ 0#v) = x ++ 0#v) : W = x ++ W.extractLsb' 0 v := by
  refine BitVec.eq_of_getLsbD_eq fun i hi => ?_
  have hi' := congrArg (fun w : BitVec (u + v) => w.getLsbD i) h
  simp only [BitVec.getLsbD_and, BitVec.getLsbD_append] at hi' ⊢
  split at hi'
  · next hv => simp [hv]
  · next hv => simpa [hv, show i - v < u by omega] using hi'

/-- The low five bits of format P are its three operands (R103). -/
theorem encode_setpin_of_fields {W : Descriptor} (hW : W = 0x11#8 ++ 0#51 ++ W.extractLsb' 0 5) :
    encode (.setpin (busOfBit (W.getLsbD 4)) (W.extractLsb' 1 3) (W.getLsbD 0)) = W := by
  rw [encode, bitOfBus_busOfBit]
  refine BitVec.eq_of_getLsbD_eq fun i hi => ?_
  conv_rhs => rw [hW, BitVec.getLsbD_append]
  rw [BitVec.getLsbD_append, BitVec.getLsbD_append, BitVec.getLsbD_append]
  by_cases h : i < 5
  · interval_cases i <;> simp
  · simp [h, show ¬ i < 1 by omega, show ¬ i - 1 < 3 by omega, show ¬ i - 1 - 3 < 1 by omega,
      show i - 1 - 3 - 1 = i - 5 by omega]

/-- The low bit of format B is its operand (R104, R105). -/
theorem ofBool_getLsbD_zero (W : Descriptor) : BitVec.ofBool (W.getLsbD 0) = W.extractLsb' 0 1 := by
  refine BitVec.eq_of_getLsbD_eq fun i hi => ?_
  interval_cases i
  simp

theorem encode_flush_of_fields {W : Descriptor} (hW : W = 0x12#8 ++ 0#55 ++ W.extractLsb' 0 1) :
    encode (.flush (busOfBit (W.getLsbD 0))) = W := by
  rw [encode, bitOfBus_busOfBit, ofBool_getLsbD_zero, ← hW]

theorem encode_read_of_fields {W : Descriptor} (hW : W = 0x13#8 ++ 0#55 ++ W.extractLsb' 0 1) :
    encode (.read (busOfBit (W.getLsbD 0))) = W := by
  rw [encode, bitOfBus_busOfBit, ofBool_getLsbD_zero, ← hW]

theorem encode_setdir_of_fields {W : Descriptor} (hW : W = 0x14#8 ++ 0#55 ++ W.extractLsb' 0 1) :
    encode (.setdir (dirOfBit (W.getLsbD 0))) = W := by
  rw [encode, bitOfDir_dirOfBit, ofBool_getLsbD_zero, ← hW]

/-- The count and the five bytes of format A before each other (R107). -/
theorem addresses_append {W : Descriptor} (hW : W = 0x22#8 ++ 0#13 ++ W.extractLsb' 0 43) :
    0x22#8 ++ 0#13 ++ W.extractLsb' 40 3 ++ W.extractLsb' 32 8 ++ W.extractLsb' 24 8 ++ W.extractLsb' 16 8 ++
      W.extractLsb' 8 8 ++ W.extractLsb' 0 8 = W := by
  have hhigh : 0x22#8 ++ 0#13 = W.extractLsb' 43 21 := by
    conv_rhs => rw [hW]
    exact ((extract_append_high _ _ (Nat.le_refl 43)).trans (extract_all _)).symm
  rw [hhigh]
  iterate 6 rw [BitVec.extractLsb'_append_extractLsb'_eq_extractLsb' (by rfl)]
  exact extract_all W

/-- Slots that are 0 from place n on can be told from the first n. -/
theorem getD_take_of_drop_zero {slots : List Byte} {n : Nat} (h : (slots.drop n).all (· == 0) = true) (k : Nat) :
    (slots.take n).getD k 0 = slots.getD k 0 := by
  by_cases hk : k < n
  · simp [List.getD_eq_getElem?_getD, hk]
  · obtain ⟨j, rfl⟩ : ∃ j, k = n + j := ⟨k - n, by omega⟩
    simp only [List.getD_eq_getElem?_getD, List.getElem?_take, hk, if_false]
    rw [← List.getElem?_drop]
    cases hj : (slots.drop n)[j]? with
    | none => rfl
    | some b => exact (eq_of_beq (List.all_eq_true.1 h b (List.mem_of_getElem? hj))).symm

/-- What format A accepts (R107, R121). -/
theorem decodeAddresses_ok {W : Descriptor} {i : Instr} (h : decodeAddresses W = .ok i) :
    (W.extractLsb' 40 3).toNat ≤ 5 ∧ ((addressBytes W).drop (W.extractLsb' 40 3).toNat).all (· == 0) = true ∧
      i = .addrlatch ((addressBytes W).take (W.extractLsb' 40 3).toNat) := by
  obtain ⟨-, h⟩ | ⟨hn, h⟩ := ite_eq_iff.1 h
  · cases h
  obtain ⟨hzero, h⟩ | ⟨-, h⟩ := ite_eq_iff.1 h
  · cases h
    exact ⟨Nat.le_of_not_lt hn, hzero, rfl⟩
  · cases h

theorem addresses_take_length {W : Descriptor} (h : (W.extractLsb' 40 3).toNat ≤ 5) :
    ((addressBytes W).take (W.extractLsb' 40 3).toNat).length = (W.extractLsb' 40 3).toNat :=
  List.length_take_of_le h

theorem encode_addrlatch_of_fields {W : Descriptor} {i : Instr} (hW : W = 0x22#8 ++ 0#13 ++ W.extractLsb' 0 43)
    (h : decodeAddresses W = .ok i) : encode i = W := by
  obtain ⟨hn, hzero, rfl⟩ := decodeAddresses_ok h
  simp only [encode, addresses_take_length hn, getD_take_of_drop_zero hzero, BitVec.ofNat_toNat, BitVec.setWidth_eq]
  exact addresses_append hW

/-! ### Encoding what was decoded -/

theorem encode_of_decode {c : Config} {W : Descriptor} {i : Instr} (h : decode c W = .ok i) :
    encode i = W ∧ WellFormed c i = true := by
  obtain ⟨hop, h⟩ | ⟨-, h⟩ := ite_eq_iff.1 h
  · obtain ⟨hres, rfl⟩ := reservedZero_ok h
    exact ⟨encode_setpin_of_fields (eq_of_fields hop hres), rfl⟩
  obtain ⟨hop, h⟩ | ⟨-, h⟩ := ite_eq_iff.1 h
  · obtain ⟨hres, rfl⟩ := reservedZero_ok h
    exact ⟨encode_flush_of_fields (eq_of_fields hop hres), rfl⟩
  obtain ⟨hop, h⟩ | ⟨-, h⟩ := ite_eq_iff.1 h
  · obtain ⟨hres, rfl⟩ := reservedZero_ok h
    exact ⟨encode_read_of_fields (eq_of_fields hop hres), rfl⟩
  obtain ⟨hop, h⟩ | ⟨-, h⟩ := ite_eq_iff.1 h
  · obtain ⟨hres, rfl⟩ := reservedZero_ok h
    exact ⟨encode_setdir_of_fields (eq_of_fields hop hres), rfl⟩
  obtain ⟨hop, h⟩ | ⟨-, h⟩ := ite_eq_iff.1 h
  · obtain ⟨hres, rfl⟩ := reservedZero_ok h
    exact ⟨(eq_of_fields hop hres).symm, rfl⟩
  obtain ⟨hop, h⟩ | ⟨-, h⟩ := ite_eq_iff.1 h
  · obtain ⟨hres, h⟩ | ⟨-, h⟩ := ite_eq_iff.1 h
    · have hW := eq_of_fields hop hres
      obtain ⟨hn, -, rfl⟩ := decodeAddresses_ok h
      exact ⟨encode_addrlatch_of_fields hW h, decide_eq_true ((addresses_take_length hn).trans_le hn)⟩
    · cases h
  obtain ⟨hop, h⟩ | ⟨-, h⟩ := ite_eq_iff.1 h
  · obtain ⟨hres, rfl⟩ := reservedZero_ok h
    exact ⟨(eq_of_fields hop hres).symm, rfl⟩
  obtain ⟨hop, h⟩ | ⟨-, h⟩ := ite_eq_iff.1 h
  · obtain ⟨hres, rfl⟩ := reservedZero_ok h
    exact ⟨(eq_of_fields_zero hop hres).symm, rfl⟩
  obtain ⟨hop, h⟩ | ⟨-, h⟩ := ite_eq_iff.1 h
  · obtain ⟨hres, rfl⟩ := reservedZero_ok h
    exact ⟨(eq_of_fields hop hres).symm, rfl⟩
  obtain ⟨hop, h⟩ | ⟨-, h⟩ := ite_eq_iff.1 h
  · obtain ⟨hc, h⟩ := macroOnly_ok h
    obtain ⟨hres, rfl⟩ := reservedZero_ok h
    exact ⟨(eq_of_fields_zero hop hres).symm, hc⟩
  obtain ⟨hop, h⟩ | ⟨-, h⟩ := ite_eq_iff.1 h
  · obtain ⟨hc, h⟩ := macroOnly_ok h
    obtain ⟨hres, rfl⟩ := reservedZero_ok h
    exact ⟨(eq_of_fields hop hres).symm, hc⟩
  obtain ⟨hop, h⟩ | ⟨-, h⟩ := ite_eq_iff.1 h
  · obtain ⟨hc, h⟩ := macroOnly_ok h
    obtain ⟨hres, rfl⟩ := reservedZero_ok h
    exact ⟨(eq_of_fields_zero hop hres).symm, hc⟩
  obtain ⟨hop, h⟩ | ⟨-, h⟩ := ite_eq_iff.1 h
  · obtain ⟨hc, h⟩ := macroOnly_ok h
    obtain ⟨hres, rfl⟩ := reservedZero_ok h
    exact ⟨(eq_of_fields hop hres).symm, hc⟩
  obtain ⟨hop, h⟩ | ⟨-, h⟩ := ite_eq_iff.1 h
  · obtain ⟨hc, h⟩ := macroOnly_ok h
    obtain ⟨hres, rfl⟩ := reservedZero_ok h
    exact ⟨(eq_of_fields_zero hop hres).symm, hc⟩
  cases h

/-- Settles O13: each arm of the decoder that accepts fixes the operation code and the reserved bits, and the operand bits are the
rest of the word. -/
theorem encodeOfDecodeIsIdentity : Obligations.EncodeOfDecodeIsIdentity := fun _ _ _ => encode_of_decode

/-! ### The match and mask constants (R111) -/

theorem encode_and_mask (i : Instr) : encode i &&& maskWord i = matchWord i := by
  cases i with
  | setpin bus pin on => exact (Laws.MatchMask.setpin bus pin on).2
  | flush bus => exact (Laws.MatchMask.flush bus).2
  | read bus => exact (Laws.MatchMask.read bus).2
  | setdir dir => exact (Laws.MatchMask.setdir dir).2
  | cmdlatch cmd => exact (Laws.MatchMask.cmdlatch cmd).2
  | addrlatch bytes => exact (Laws.MatchMask.addrlatch bytes).2
  | latchout n => exact (Laws.MatchMask.latchout n).2
  | busypoll => exact Laws.MatchMask.busypoll.2
  | map address => exact (Laws.MatchMask.map address).2
  | identify => exact Laws.MatchMask.identify.2
  | pageread page => exact (Laws.MatchMask.pageread page).2
  | dump => exact Laws.MatchMask.dump.2
  | erase block => exact (Laws.MatchMask.erase block).2
  | program => exact Laws.MatchMask.program.2

/-- The constants belong to the operation code, not to the operands. -/
theorem mask_eq_of_opcode_eq {i j : Instr} (h : opcode j = opcode i) :
    maskWord j = maskWord i ∧ matchWord j = matchWord i := by
  revert h
  cases i <;> cases j <;> simp [opcode, maskWord, matchWord]

/-- But for ADDRLATCH, a word that meets an operation's constants encodes an operation of that code. -/
theorem exists_encode_of_mask {W : Descriptor} {i : Instr} (hi : ∀ bytes, i ≠ .addrlatch bytes)
    (h : W &&& maskWord i = matchWord i) :
    ∃ j, encode j = W ∧ opcode j = opcode i ∧ WellFormed Config.standard j = true := by
  cases i with
  | addrlatch bytes => exact absurd rfl (hi bytes)
  | setpin =>
    exact ⟨_, encode_setpin_of_fields (eq_of_mask (u := 59) (v := 5) (x := 0x11#8 ++ 0#51) h), rfl, rfl⟩
  | flush => exact ⟨_, encode_flush_of_fields (eq_of_mask (u := 63) (v := 1) (x := 0x12#8 ++ 0#55) h), rfl, rfl⟩
  | read => exact ⟨_, encode_read_of_fields (eq_of_mask (u := 63) (v := 1) (x := 0x13#8 ++ 0#55) h), rfl, rfl⟩
  | setdir => exact ⟨_, encode_setdir_of_fields (eq_of_mask (u := 63) (v := 1) (x := 0x14#8 ++ 0#55) h), rfl, rfl⟩
  | cmdlatch => exact ⟨.cmdlatch _, (eq_of_mask (u := 56) (v := 8) (x := 0x21#8 ++ 0#48) h).symm, rfl, rfl⟩
  | latchout => exact ⟨.latchout _, (eq_of_mask (u := 32) (v := 32) (x := 0x23#8 ++ 0#24) h).symm, rfl, rfl⟩
  | map => exact ⟨.map _, (eq_of_mask (u := 32) (v := 32) (x := 0x41#8 ++ 0#24) h).symm, rfl, rfl⟩
  | pageread => exact ⟨.pageread _, (eq_of_mask (u := 32) (v := 32) (x := 0x52#8 ++ 0#24) h).symm, rfl, rfl⟩
  | erase => exact ⟨.erase _, (eq_of_mask (u := 32) (v := 32) (x := 0x54#8 ++ 0#24) h).symm, rfl, rfl⟩
  | busypoll => exact ⟨.busypoll, ((BitVec.and_allOnes (x := W)).symm.trans h).symm, rfl, rfl⟩
  | identify => exact ⟨.identify, ((BitVec.and_allOnes (x := W)).symm.trans h).symm, rfl, rfl⟩
  | dump => exact ⟨.dump, ((BitVec.and_allOnes (x := W)).symm.trans h).symm, rfl, rfl⟩
  | program => exact ⟨.program, ((BitVec.and_allOnes (x := W)).symm.trans h).symm, rfl, rfl⟩

/-- Settles O14: a word that meets the constants is the encoding of an operation of that code, which decodes to it; and an
operation decoded is one whose encoding the word is. -/
theorem matchAndMaskSelect : Obligations.MatchAndMaskSelect := by
  refine ⟨fun W i hi => ⟨fun h => ?selects, fun ⟨j, hj, hop⟩ => ?meets⟩, fun W bytes h => ?addrlatch⟩
  case selects =>
    obtain ⟨j, rfl, hop, hwf⟩ := exists_encode_of_mask hi h
    exact ⟨j, decodeOfEncodeIsIdentity _ j hwf, hop⟩
  case meets =>
    obtain ⟨hmask, hmatch⟩ := mask_eq_of_opcode_eq hop
    rw [← hmask, ← hmatch, ← (encode_of_decode hj).1, encode_and_mask]
  case addrlatch => rw [← (encode_of_decode h).1, encode_and_mask]

/-- Settles O11: the seven words are the encodings of their operations, and of ADDRLATCH only lists of at most five bytes are
accepted. -/
theorem specWordsDecode : Obligations.SpecWordsDecode :=
  ⟨decode_encode_setpin _ .ctl 3 true, decode_encode_read _ .ctl, decode_encode_cmdlatch _ 0x90,
    decode_encode_addrlatch _ (bytes := [0xC0, 0x07, 0xFF, 0x0F, 0x02]) (by decide), decode_encode_latchout _ 2112,
    decode_encode_map _ 0x12345678, decode_encode_pageread rfl 262143, by decide⟩

end Sys2Proof
end

section
/-! PROOFS. What a step keeps (10_state.md sections 2, 4 and 5). A property that parking, answering, every micro-step and the taking
of a descriptor keep is kept by every advance and by every step without reset, and by a reset too if the reset keeps it
(`Kept`); the two invariants are proved with it. -/

namespace Sys2Proof.Machine

/-! ### The one induction over steps -/

/-- A property of states that an operation and the host's turn keep, whatever device and transport answer. -/
structure Kept (c : Config) (P : State → Prop) : Prop where
  park : ∀ {s op k loc}, P s → P (s.park op k loc)
  respond : ∀ {s r}, P s → P (s.respond r)
  sampled : ∀ {s}, P s → P s.afterSampling
  program : ∀ {s rest}, P s → P { s with env := { s.env with program := rest } }
  micro : ∀ {s}, P s → ∀ m loc, (microEffect c loc s m).All P

section
variable {c : Config} {P : State → Prop} {s t : State}

theorem Kept.runMicros (hP : Kept c P) (h : P s) (op : Instr) (ms : List Micro) (k : Nat) (loc : Locals) :
    P (runMicros c op ms k loc s) :=
  runMicros_keeps (fun _ _ _ => hP.park) (fun _ _ => hP.respond) (fun m _ loc _ hu => hP.micro hu m loc) k loc h

theorem Kept.perform (hP : Kept c P) (h : P s) (i : Instr) : P (perform c i s) :=
  hP.runMicros h i _ 0 Locals.start

theorem Kept.resume (hP : Kept c P) (h : P s) {op : Instr} {k : Nat} {loc : Locals}
    (hs : resume c op k loc s = .next t) : P t :=
  eq_runMicros_of_resume hs ▸ hP.runMicros h op _ k loc

theorem Kept.microStep (hP : Kept c P) (h : P s) : P (microStep c s) := by
  cases hseq : s.seq with
  | idle => rwa [microStep_idle hseq]
  | run op k loc =>
    cases hm : (microProgram c op)[k]? with
    | none => rwa [microStep_pastEnd hseq hm]
    | some m => exact microStep_eq_runMicros hseq hm ▸ hP.runMicros h op [m] k loc

theorem Sequencer.idle_or_run (q : Sequencer) : q = .idle ∨ ∃ op k loc, q = .run op k loc := by
  cases q with
  | idle => exact .inl rfl
  | run op k loc => exact .inr ⟨op, k, loc, rfl⟩

/-- What the machine does at its turn, and in which state. -/
theorem turn_cases (c : Config) (s : State) :
    (∃ op k loc, s.seq = .run op k loc ∧ turn c s = .go op k loc s) ∨
    (∃ W rest i, s.seq = .idle ∧ s.env.program = W :: rest ∧ decode c W = .ok i ∧
      turn c s = .issue i { s with env := { s.env with program := rest } }) ∨
    (∃ W rest e, s.seq = .idle ∧ s.env.program = W :: rest ∧ decode c W = .error e ∧
      turn c s = .illegal e { s with env := { s.env with program := rest } }) ∨
    (s.seq = .idle ∧ s.env.program = [] ∧ turn c s = .wait s) := by
  obtain hseq | ⟨op, k, loc, hseq⟩ := s.seq.idle_or_run
  · rcases hp : s.env.program with _ | ⟨W, rest⟩
    · exact .inr (.inr (.inr ⟨hseq, rfl, turn_wait hseq hp⟩))
    · cases hd : decode c W with
      | ok i => exact .inr (.inl ⟨W, rest, i, hseq, rfl, hd, turn_issue hseq hp hd⟩)
      | error e => exact .inr (.inr (.inl ⟨W, rest, e, hseq, rfl, hd, turn_illegal hseq hp hd⟩))
  · exact .inl ⟨op, k, loc, hseq, turn_run hseq⟩

theorem Kept.advance (hP : Kept c P) (h : P s) : P (advance c s) := by
  rw [Machine.advance]
  obtain ⟨op, k, loc, -, ht⟩ | ⟨W, rest, i, -, -, -, ht⟩ | ⟨W, rest, e, -, -, -, ht⟩ | ⟨-, -, ht⟩ := turn_cases c s <;>
    rw [ht]
  · exact hP.microStep h
  · exact hP.park (hP.program h)
  · exact hP.respond (hP.program h)
  · exact h

theorem Kept.advances (hP : Kept c P) (n : Nat) (h : P s) : P (advances c n s) := by
  induction n generalizing s with
  | zero => exact h
  | succ n ih => exact ih (hP.advance h)

/-- The machine's step is the step under the standard configuration. -/
theorem step_eq_stepWith (s : State) : step s = stepWith Config.standard s := by
  cases hdue : resetDue s with
  | some n => rw [step, stepWith, hdue]
  | none =>
    obtain ⟨op, k, loc, -, ht⟩ | ⟨W, rest, i, hseq, -, -, ht⟩ | ⟨W, rest, e, -, -, -, ht⟩ | ⟨-, -, ht⟩ :=
      turn_cases Config.standard s.afterSampling <;> simp only [step, stepWith, hdue, ht]
    exact exec_idle i hseq

theorem Kept.stepWith_unreset (hP : Kept c P) (h : P s) (hdue : resetDue s = none) (hs : stepWith c s = .next t) :
    P t := by
  have hsampled := hP.sampled h
  rw [stepWith, hdue] at hs
  obtain ⟨op, k, loc, -, ht⟩ | ⟨W, rest, i, -, -, -, ht⟩ | ⟨W, rest, e, -, -, -, ht⟩ | ⟨-, -, ht⟩ :=
    turn_cases c s.afterSampling <;> simp only [ht] at hs
  · exact hP.resume hsampled hs
  · cases hs
    exact hP.perform (hP.program hsampled) i
  · cases hs
    exact hP.respond (hP.program hsampled)
  · cases hs
    exact hsampled

theorem Kept.stepWith (hP : Kept c P) (hreset : ∀ {u}, P u → P u.sessionStart) (h : P s)
    (hs : stepWith c s = .next t) : P t := by
  cases hdue : resetDue s with
  | none => exact hP.stepWith_unreset h hdue hs
  | some n =>
    rw [stepWith_reset hdue] at hs
    cases hs
    exact hreset (hP.advances n (hP.sampled h))

end

/-! ### Effects -/

theorem Effect.All.mono {P Q : State → Prop} {e : Effect} (h : e.All P) (hpq : ∀ t, P t → Q t) : e.All Q := by
  cases e with
  | go l t => exact hpq t h
  | again l t => exact hpq t h
  | finish r t => exact hpq t h
  | stop status l t => exact hpq t h

theorem CallResult.all_imp {α : Type} {p : Prop} {P : State → Prop} {r : CallResult α} (h : p → r.All P) :
    r.All fun t => p → P t := by
  cases r with
  | done a t => exact h
  | failed t => exact h

/-- Only a busy-poll read is made again. -/
theorem eq_poll_of_again {c : Config} {loc l : Locals} {s t : State} {m : Micro}
    (h : microEffect c loc s m = .again l t) : m = .poll := by
  have hm : m ≠ .openStream := by
    rintro rfl
    cases h
  have hkeeps := microEffect_keepsMarkOrEnds c loc s hm
  rw [h] at hkeeps
  exact hkeeps.2

/-! ### What every micro-step does, said of the transport calls -/

/-- A relation between the states before and after that the transport calls and the other updates of a micro-step respect. -/
structure StepRelation (R : State → State → Prop) : Prop where
  refl : ∀ s, R s s
  setShadow : ∀ {s t bus v}, R (s.setShadow bus v) t → R s t
  emptied : ∀ {s t}, R (s.setObuf []) t → R s t
  filled : ∀ {s t bytes}, R s t → R s (t.setObuf bytes)
  deliver : ∀ s, R s s.deliver
  delay : ∀ s k, R s (s.log (.delay k))
  write : ∀ bus v s, (tWrite bus v s).All (R s)
  read : ∀ bus s, (tRead bus s).All (R s)
  config : ∀ d s, (tConfig d s).All (R s)

theorem StepRelation.microEffect {R : State → State → Prop} (hR : StepRelation R) (c : Config) (loc : Locals) (s : State)
    (m : Micro) : (microEffect c loc s m).All (R s) := by
  have hflush (bus : Bus) (v : Byte) : (flushBus bus (s.setShadow bus v)).All (R s) :=
    (hR.write bus _ _).mono fun _ => hR.setShadow
  cases m with
  | check pre =>
    rw [Machine.microEffect]
    split
    · exact hR.refl s
    · split <;> exact hR.refl s
  | assign bus pin on => exact hR.setShadow (hR.refl (s.setShadow bus _))
  | flush bus => exact afterCall_all (hR.write bus _ s) fun _ _ ht => ht
  | sample bus => exact afterCall_all (hR.read bus s) fun _ _ ht => ht
  | config d => exact afterCall_all (hR.config d s) fun _ _ ht => ht
  | raise S => exact afterCall_all (hflush .ctl _) fun _ _ ht => ht
  | lower S => exact afterCall_all (hflush .ctl _) fun _ _ ht => ht
  | drive b => exact afterCall_all (hflush .io b) fun _ _ ht => ht
  | delay k => exact hR.delay s k
  | turnIn => exact afterCall_all ((hR.config .input _).mono fun _ => hR.emptied) fun _ _ ht => ht
  | fetchByte => exact afterCall_all (hR.read .io s) fun _ _ ht => hR.filled ht
  | poll => exact afterCall_all (hR.read .ctl s) fun _ _ ht => afterPoll_all ht
  | openStream => exact hR.refl s
  | deliver => exact hR.deliver s
  | answer a => exact hR.refl s

/-! ### The state agrees with the history -/

theorem chipView_append (c : Config) (d : Option Dir) (h es : List Event) :
    chipView c d (h ++ es) = es.foldl (chipEvent c) (chipView c d h) := List.foldl_append

theorem lastDir_append_cfgIo (h : List Event) (d : Dir) : lastDir (h ++ [.cfgIo d]) = some d := by
  rw [lastDir, List.foldl_append]
  rfl

theorem lastDir_append_of_ne {e : Event} (he : ∀ d, e ≠ .cfgIo d) (h : List Event) : lastDir (h ++ [e]) = lastDir h := by
  rw [lastDir, List.foldl_append]
  cases e with
  | cfgIo d => exact absurd rfl (he d)
  | _ => rfl

section
variable {c : Config} {d : Option Dir} {s : State}

theorem Tracks.setShadow (h : Tracks c d s) (bus : Bus) (v : Byte) : Tracks c d (s.setShadow bus v) := by
  cases bus <;> exact h

theorem Tracks.delay (h : Tracks c d s) (k : DelayPoint) : Tracks c d (s.log (.delay k)) := by
  obtain ⟨hctl, hio, hdir, hlast, hfault⟩ := h
  refine ⟨?_, ?_, ?_, ?_, ?_⟩ <;> simp [chipView_append, chipEvent, lastDir_append_of_ne, *]

theorem tWrite_tracks (h : Tracks c d s) (bus : Bus) (v : Byte) : (tWrite bus v s).All (Tracks c d) := by
  obtain ⟨hctl, hio, hdir, hlast, hfault⟩ := h
  cases hask : s.env.link.ask.1 with
  | true =>
    rw [tWrite_granted hask]
    cases bus <;> refine ⟨?_, ?_, ?_, ?_, ?_⟩ <;>
      simp [chipView_append, chipEvent, lastDir_append_of_ne, writeEvent, *]
  | false =>
    rw [tWrite_failed hask]
    cases bus <;> refine ⟨?_, ?_, ?_, ?_, ?_⟩ <;> simp [chipView_append, chipEvent, lastDir_append_of_ne, *]

theorem tRead_tracks (h : Tracks c d s) (bus : Bus) : (tRead bus s).All (Tracks c d) := by
  obtain ⟨hctl, hio, hdir, hlast, hfault⟩ := h
  cases hask : s.env.link.ask.1 with
  | true =>
    rw [tRead_granted hask]
    cases bus <;> refine ⟨?_, ?_, ?_, ?_, ?_⟩ <;>
      simp [chipView_append, chipEvent, lastDir_append_of_ne, readEvent, *]
  | false =>
    rw [tRead_failed hask]
    refine ⟨?_, ?_, ?_, ?_, ?_⟩ <;> simp [chipView_append, chipEvent, lastDir_append_of_ne, *]

theorem tConfig_tracks (h : Tracks c d s) (dir : Dir) : (tConfig dir s).All (Tracks c d) := by
  obtain ⟨hctl, hio, hdir, hlast, hfault⟩ := h
  cases hask : s.env.link.ask.1 with
  | true =>
    rw [tConfig_granted hask]
    refine ⟨?_, ?_, ?_, ?_, ?_⟩ <;> simp [chipView_append, chipEvent, lastDir_append_cfgIo, *]
  | false =>
    rw [tConfig_failed hask]
    refine ⟨?_, ?_, ?_, ?_, ?_⟩ <;> simp [chipView_append, chipEvent, lastDir_append_of_ne, *]

/-- So every micro-step keeps the state in agreement with the history. -/
theorem tracks_stepRelation (c : Config) (d : Option Dir) :
    StepRelation fun s t => Tracks c d s → Tracks c d t where
  refl _ := id
  setShadow h hs := h (hs.setShadow _ _)
  emptied h := h
  filled h := h
  deliver _ h := h
  delay _ k h := h.delay k
  write bus v _ := CallResult.all_imp fun h => tWrite_tracks h bus v
  read bus _ := CallResult.all_imp fun h => tRead_tracks h bus
  config dir _ := CallResult.all_imp fun h => tConfig_tracks h dir

/-- A reset state agrees with its empty history, the bus turned as it was on the transport's side (R282). -/
theorem sessionStart_histOk (c : Config) (s : State) : HistOk c s.sessionStart :=
  ⟨s.env.lineDir, rfl, rfl, rfl, rfl, by simp [State.reset]⟩

theorem histOk_kept (c : Config) : Kept c (HistOk c) where
  park h := h
  respond h := h
  sampled h := h
  program h := h
  micro h m loc := by
    obtain ⟨d, hd⟩ := h
    exact ((tracks_stepRelation c d).microEffect c loc _ m).mono fun _ ht => ⟨d, ht hd⟩

end

/-- Settles O49: every transport call appends the one event that tells what it did to latch, direction and fault, nothing else writes
these, and a reset begins a new history. -/
theorem historyInvariantKept : Obligations.HistoryInvariantKept := fun s _ h hs =>
  (histOk_kept Config.standard).stepWith (fun _ => sessionStart_histOk _ _) h ((step_eq_stepWith s).symm.trans hs)

/-! ### The sequencer rests in Idle or at a busy-poll read -/

theorem microProgram_eq_append_answer (c : Config) (op : Instr) :
    ∃ ms a, microProgram c op = ms ++ [.answer a] := by
  cases op with
  | setpin bus pin on => exact ⟨[.assign bus pin on], .done, rfl⟩
  | flush bus => exact ⟨[.check [], .flush bus], .done, rfl⟩
  | read bus => exact ⟨[.check [], .sample bus], .value, rfl⟩
  | setdir dir => exact ⟨[.check [], .config dir], .done, rfl⟩
  | cmdlatch cmd => exact ⟨cmdlatchSteps cmd, .done, rfl⟩
  | addrlatch bytes => exact ⟨addrlatchSteps bytes, .done, rfl⟩
  | latchout n => exact ⟨latchoutSteps n.toNat, .obuf, rfl⟩
  | busypoll => exact ⟨busypollSteps c, .done, rfl⟩
  | map address => exact ⟨[], .fixed ⟨.ok, mapCycles address⟩, rfl⟩
  | identify => exact ⟨_, .identify, rfl⟩
  | pageread page => exact ⟨pagereadSteps c page, .obuf, rfl⟩
  | dump => exact ⟨_, .stream, rfl⟩
  | erase block => exact ⟨(eraseProgram c block).dropLast, .erase, rfl⟩
  | program => exact ⟨[], .fixed ⟨.notImplemented, []⟩, rfl⟩

/-- What is left of a micro-program, as long as anything is, ends with its answer. -/
theorem microProgram_drop_eq_append_answer {c : Config} {op : Instr} {k : Nat}
    (h : k < (microProgram c op).length) : ∃ ms a, (microProgram c op).drop k = ms ++ [.answer a] := by
  obtain ⟨ms, a, hms⟩ := microProgram_eq_append_answer c op
  rw [hms, List.length_append, List.length_singleton] at h
  exact ⟨ms.drop k, a, by rw [hms, List.drop_append_of_le_length (by omega)]⟩

theorem getElem?_of_drop_eq_cons {α : Type} {l ms : List α} {k : Nat} {m : α} (h : l.drop k = m :: ms) :
    l[k]? = some m ∧ l.drop (k + 1) = ms := by
  constructor
  · rw [← Nat.add_zero k, ← List.getElem?_drop, h]
    rfl
  · rw [← List.drop_drop, h, List.drop_one, List.tail_cons]

/-- A run of what is left of a micro-program ends the operation or leaves it at a busy-poll read. -/
theorem runMicros_seqOk {c : Config} {op : Instr} {ms : List Micro} {a : Answer} {k : Nat}
    (hk : (microProgram c op).drop k = ms ++ [.answer a]) (loc : Locals) (s : State) :
    SeqOk c (runMicros c op (ms ++ [.answer a]) k loc s) := by
  induction ms generalizing k loc s with
  | nil => exact trivial
  | cons m ms ih =>
    obtain ⟨hm, hdrop⟩ := getElem?_of_drop_eq_cons hk
    rw [List.cons_append]
    cases he : microEffect c loc s m with
    | go l t => exact runMicros_go he ▸ ih hdrop l t
    | again l t =>
      rw [runMicros_again he]
      exact hm.trans (congrArg some (eq_poll_of_again he))
    | finish r t => exact runMicros_finish he ▸ trivial
    | stop status l t => exact runMicros_stop he ▸ trivial

theorem resume_seqOk {c : Config} {op : Instr} {k : Nat} (h : k < (microProgram c op).length) (loc : Locals)
    (s : State) : ∃ t, resume c op k loc s = .next t ∧ SeqOk c t := by
  obtain ⟨ms, a, hdrop⟩ := microProgram_drop_eq_append_answer h
  refine ⟨_, ?_, runMicros_seqOk hdrop loc s⟩
  rw [resume]
  cases ms with
  | nil => rw [hdrop]; rfl
  | cons m ms => rw [hdrop]; rfl

theorem perform_seqOk (c : Config) (i : Instr) (s : State) : SeqOk c (perform c i s) := by
  obtain ⟨ms, a, hms⟩ := microProgram_eq_append_answer c i
  rw [perform, hms]
  exact runMicros_seqOk (k := 0) hms Locals.start s

theorem stepWith_seqOk {c : Config} {s : State} (h : SeqOk c s) : ∃ t, stepWith c s = .next t ∧ SeqOk c t := by
  cases hdue : resetDue s with
  | some n => exact ⟨_, stepWith_reset hdue, trivial⟩
  | none =>
    rw [stepWith, hdue]
    obtain ⟨op, k, loc, hseq, ht⟩ | ⟨W, rest, i, -, -, -, ht⟩ | ⟨W, rest, e, -, -, -, ht⟩ | ⟨hseq, -, ht⟩ :=
      turn_cases c s.afterSampling <;> simp only [ht]
    · have hpoll : (microProgram c op)[k]? = some .poll := by
        rw [SeqOk, show s.seq = .run op k loc from hseq] at h
        exact h
      exact resume_seqOk (List.getElem?_eq_some_iff.1 hpoll).1 loc _
    · exact ⟨_, rfl, perform_seqOk c i _⟩
    · exact ⟨_, rfl, trivial⟩
    · exact ⟨_, rfl, h⟩

/-- Settles O50: at a busy-poll read there is a micro-step to make, and every micro-program ends with its answer, so a run stops only
there or at a busy-poll read. -/
theorem sequencerInvariantKept : Obligations.SequencerInvariantKept := fun s h =>
  step_eq_stepWith s ▸ stepWith_seqOk h

/-- Settles O51: the history of a reset state is empty, and it is Idle. -/
theorem resetMeetsInvariants : Obligations.ResetMeetsInvariants := fun s => ⟨sessionStart_histOk _ s, trivial⟩

end Sys2Proof.Machine
end

section
/-! PROOFS. What was answered and where the sequencer stands are nothing to a micro-step: it neither reads nor writes them
(`microEffect_mapAnswers`). So single micro-steps, between which the sequencer moves, do what a step does in one go (10_state.md
section 5), and each operation gets one response. -/

namespace Sys2Proof.Machine

/-! ### States alike but for the sequencer and the answers -/

/-- The state with its sequencer, its response and the responses handed out replaced. -/
def State.mapAnswers (q : Sequencer → Sequencer) (r : Response → Response) (rs : List Response → List Response)
    (s : State) : State :=
  { s with seq := q s.seq, resp := r s.resp, env := { s.env with responses := rs s.env.responses } }

/-- The same way, in another state. -/
def Effect.map (f : State → State) : Effect → Effect
  | .go l s => .go l (f s)
  | .again l s => .again l (f s)
  | .finish r s => .finish r (f s)
  | .stop status l s => .stop status l (f s)

/-- The same outcome of a transport call, in another state. -/
def CallResult.map {α : Type} (f : State → State) : CallResult α → CallResult α
  | .done a s => .done a (f s)
  | .failed s => .failed (f s)

theorem afterCall_map {α : Type} {f : State → State} {loc : Locals} {next : α → State → Effect} {r r' : CallResult α}
    (hr : r' = r.map f) (h : ∀ a s, next a (f s) = (next a s).map f) :
    afterCall loc r' next = (afterCall loc r next).map f := by
  subst hr
  cases r with
  | done a s => exact h a s
  | failed s => rfl

section
variable (q : Sequencer → Sequencer) (r : Response → Response) (rs : List Response → List Response)

theorem tWrite_mapAnswers (bus : Bus) (v : Byte) (s : State) :
    tWrite bus v (s.mapAnswers q r rs) = (tWrite bus v s).map (State.mapAnswers q r rs) := by
  cases h : s.env.link.ask.1 with
  | true =>
    rw [tWrite_granted h, tWrite_granted (s := s.mapAnswers q r rs) h]
    cases bus <;> rfl
  | false =>
    rw [tWrite_failed h, tWrite_failed (s := s.mapAnswers q r rs) h]
    cases bus <;> rfl

theorem tRead_mapAnswers (bus : Bus) (s : State) :
    tRead bus (s.mapAnswers q r rs) = (tRead bus s).map (State.mapAnswers q r rs) := by
  cases h : s.env.link.ask.1 with
  | true =>
    rw [tRead_granted h, tRead_granted (s := s.mapAnswers q r rs) h]
    cases bus <;> rfl
  | false =>
    rw [tRead_failed h, tRead_failed (s := s.mapAnswers q r rs) h]
    rfl

theorem tConfig_mapAnswers (d : Dir) (s : State) :
    tConfig d (s.mapAnswers q r rs) = (tConfig d s).map (State.mapAnswers q r rs) := by
  cases h : s.env.link.ask.1 with
  | true =>
    rw [tConfig_granted h, tConfig_granted (s := s.mapAnswers q r rs) h]
    rfl
  | false =>
    rw [tConfig_failed h, tConfig_failed (s := s.mapAnswers q r rs) h]
    rfl

theorem afterPoll_mapAnswers (c : Config) (loc : Locals) (v : Byte) (s : State) :
    afterPoll c loc v (s.mapAnswers q r rs) = (afterPoll c loc v s).map (State.mapAnswers q r rs) := by
  unfold afterPoll
  split
  · rfl
  · split <;> rfl

theorem response_mapAnswers (c : Config) (loc : Locals) (s : State) (a : Answer) :
    response c loc (s.mapAnswers q r rs) a = response c loc s a := by
  cases a <;> rfl

theorem microEffect_mapAnswers (c : Config) (loc : Locals) (s : State) (m : Micro) :
    microEffect c loc (s.mapAnswers q r rs) m = (microEffect c loc s m).map (State.mapAnswers q r rs) := by
  cases m with
  | check pre =>
    rw [microEffect, microEffect]
    show (if s.fault.isSome then _ else if passes c pre s.ctlShadow then _ else _) = _
    split
    · rfl
    · split <;> rfl
  | assign bus pin on => cases bus <;> rfl
  | flush bus =>
    refine afterCall_map (Eq.trans ?_ (tWrite_mapAnswers q r rs bus (s.shadow bus) s)) fun _ _ => rfl
    cases bus <;> rfl
  | sample bus => exact afterCall_map (tRead_mapAnswers q r rs bus s) fun _ _ => rfl
  | config d => exact afterCall_map (tConfig_mapAnswers q r rs d s) fun _ _ => rfl
  | raise S => exact afterCall_map (tWrite_mapAnswers q r rs .ctl _ (s.setShadow .ctl _)) fun _ _ => rfl
  | lower S => exact afterCall_map (tWrite_mapAnswers q r rs .ctl _ (s.setShadow .ctl _)) fun _ _ => rfl
  | drive b => exact afterCall_map (tWrite_mapAnswers q r rs .io b (s.setShadow .io b)) fun _ _ => rfl
  | delay k => rfl
  | turnIn => exact afterCall_map (tConfig_mapAnswers q r rs .input (s.setObuf [])) fun _ _ => rfl
  | fetchByte => exact afterCall_map (tRead_mapAnswers q r rs .io s) fun _ _ => rfl
  | poll => exact afterCall_map (tRead_mapAnswers q r rs .ctl s) (afterPoll_mapAnswers q r rs c loc)
  | openStream => rfl
  | deliver => rfl
  | answer a => rw [microEffect, response_mapAnswers]; rfl

theorem Leads.mapAnswers {c : Config} {ms : List Micro} {loc loc' : Locals} {s s' : State}
    (h : Leads c ms loc s loc' s') : Leads c ms loc (s.mapAnswers q r rs) loc' (s'.mapAnswers q r rs) := by
  induction ms generalizing loc s with
  | nil =>
    obtain ⟨rfl, rfl⟩ := h
    exact ⟨rfl, rfl⟩
  | cons m ms ih =>
    obtain ⟨l, t, hm, ht⟩ := h
    exact ⟨l, _, by rw [microEffect_mapAnswers, hm]; rfl, ih ht⟩

end

section
variable {c : Config} {s s' t : State} {loc loc' : Locals} {ms : List Micro}

theorem Leads.park (h : Leads c ms loc s loc' s') (op : Instr) (k : Nat) (l : Locals) :
    Leads c ms loc (s.park op k l) loc' (s'.park op k l) := h.mapAnswers (fun _ => .run op k l) id id

theorem Leads.respond (h : Leads c ms loc s loc' s') (r : Response) :
    Leads c ms loc (s.respond r) loc' (s'.respond r) := h.mapAnswers (fun _ => .idle) (fun _ => r) (· ++ [r])

/-- A run does not depend on where the sequencer stood before it. -/
theorem runMicros_park (c : Config) (op op' : Instr) (ms : List Micro) (k k' : Nat) (loc l : Locals) (s : State) :
    runMicros c op ms k loc (s.park op' k' l) = runMicros c op ms k loc s := by
  induction ms generalizing k loc s with
  | nil => rfl
  | cons m ms ih =>
    have hm : microEffect c loc (s.park op' k' l) m = (microEffect c loc s m).map (State.park · op' k' l) :=
      microEffect_mapAnswers (fun _ => .run op' k' l) id id c loc s m
    rw [runMicros, runMicros, hm]
    cases microEffect c loc s m with
    | go l' t => exact ih (k + 1) l' t
    | again l' t => rfl
    | finish r t => rfl
    | stop status l' t => rfl

/-- Sequencer, response and responses handed out are the same in two states. -/
structure SameAnswers (s t : State) : Prop where
  seq : t.seq = s.seq
  resp : t.resp = s.resp
  responses : t.env.responses = s.env.responses

theorem SameAnswers.of_eq
    (h : t = t.mapAnswers (fun _ => s.seq) (fun _ => s.resp) (fun _ => s.env.responses)) : SameAnswers s t :=
  ⟨by rw [h]; rfl, by rw [h]; rfl, by rw [h]; rfl⟩

/-- Since a micro-step takes replaced answers along, it leaves the answers as they are. -/
theorem microEffect_sameAnswers (c : Config) (loc : Locals) (s : State) (m : Micro) :
    (microEffect c loc s m).All (SameAnswers s) := by
  have h := microEffect_mapAnswers (fun _ => s.seq) (fun _ => s.resp) (fun _ => s.env.responses) c loc s m
  have hs : s.mapAnswers (fun _ => s.seq) (fun _ => s.resp) (fun _ => s.env.responses) = s := rfl
  rw [hs] at h
  cases he : microEffect c loc s m with
  | go l t => exact .of_eq (Effect.go.inj (he ▸ h)).2
  | again l t => exact .of_eq (Effect.again.inj (he ▸ h)).2
  | finish r t => exact .of_eq (Effect.finish.inj (he ▸ h)).2
  | stop status l t => exact .of_eq (Effect.stop.inj (he ▸ h)).2.2

/-! ### A step is a run of micro-steps (R50) -/

/-- From a Run position, a run of the micro-steps that are left is some positive number of advances. -/
theorem advances_eq_runMicros {op : Instr} {k : Nat} {m : Micro} (hseq : s.seq = .run op k loc)
    (hk : (microProgram c op).drop k = m :: ms) :
    ∃ n, 0 < n ∧ advances c n s = runMicros c op (m :: ms) k loc s := by
  induction ms generalizing m k loc s with
  | nil =>
    refine ⟨1, Nat.one_pos, ?_⟩
    rw [advances_succ, advances_zero, advance_run hseq, microStep_eq_runMicros hseq (getElem?_of_drop_eq_cons hk).1]
  | cons m' ms ih =>
    obtain ⟨hm, hdrop⟩ := getElem?_of_drop_eq_cons hk
    have hfirst : advance c s = runMicros c op [m] k loc s := by
      rw [advance_run hseq, microStep_eq_runMicros hseq hm]
    cases he : microEffect c loc s m with
    | go l t =>
      obtain ⟨n, -, hn⟩ := ih (s := t.park op (k + 1) l) (loc := l) rfl hdrop
      refine ⟨n + 1, Nat.succ_pos n, ?_⟩
      rw [advances_succ, hfirst, runMicros_go he, runMicros_nil, hn, runMicros_go he, runMicros_park]
    | again l t => exact ⟨1, Nat.one_pos, by rw [advances_succ, advances_zero, hfirst, runMicros_again he, runMicros_again he]⟩
    | finish r t =>
      exact ⟨1, Nat.one_pos, by rw [advances_succ, advances_zero, hfirst, runMicros_finish he, runMicros_finish he]⟩
    | stop status l t =>
      exact ⟨1, Nat.one_pos, by rw [advances_succ, advances_zero, hfirst, runMicros_stop he, runMicros_stop he]⟩

theorem advances_eq_of_resume {op : Instr} {k : Nat} (hseq : s.seq = .run op k loc) (hs : resume c op k loc s = .next t) :
    ∃ n, 0 < n ∧ advances c n s = t := by
  unfold resume at hs
  split at hs
  · cases hs
  · next m ms hk =>
    cases hs
    exact advances_eq_runMicros hseq hk

theorem advances_eq_perform {i : Instr} (ht : turn c s = .issue i s') : ∃ n, 0 < n ∧ advances c n s = perform c i s' := by
  obtain ⟨m, ms, hms⟩ : ∃ m ms, microProgram c i = m :: ms := by
    obtain ⟨ms, a, hms⟩ := microProgram_eq_append_answer c i
    exact List.exists_cons_of_ne_nil (by simp [hms])
  obtain ⟨n, -, hn⟩ := advances_eq_runMicros (s := s'.park i 0 Locals.start) (k := 0) rfl hms
  refine ⟨n + 1, Nat.succ_pos n, ?_⟩
  rw [advances_succ, advance, ht, hn, runMicros_park, perform, hms]

/-- Settles O52: between two micro-steps of a run the finer machine parks, which the next micro-step does not see. -/
theorem microStepsRefineStep : Obligations.MicroStepsRefineStep := by
  refine ⟨fun c op k loc s t => advances_eq_of_resume, fun c s t hdue hs => ?_, step_eq_stepWith⟩
  rw [stepWith, hdue] at hs
  obtain ⟨op, k, loc, hseq, ht⟩ | ⟨W, rest, i, -, -, -, ht⟩ | ⟨W, rest, e, -, -, -, ht⟩ | ⟨-, -, ht⟩ :=
    turn_cases c s.afterSampling <;> simp only [ht] at hs
  · exact advances_eq_of_resume hseq hs
  · cases hs
    exact advances_eq_perform ht
  · cases hs
    exact ⟨1, Nat.one_pos, by rw [advances_succ, advances_zero, advance, ht]⟩
  · cases hs
    exact ⟨1, Nat.one_pos, by rw [advances_succ, advances_zero, advance, ht]⟩

/-! ### One event a micro-step (R50) -/

/-- The history is as before, or longer by one event. -/
def GrowsByOne (s t : State) : Prop := t.hist = s.hist ∨ ∃ e, t.hist = s.hist ++ [e]

theorem tWrite_growsByOne (bus : Bus) (v : Byte) (s : State) : (tWrite bus v s).All (GrowsByOne s) := by
  cases h : s.env.link.ask.1 with
  | true => rw [tWrite_granted h]; exact .inr ⟨_, by rw [State.log_hist, State.setLatch_hist]; rfl⟩
  | false => rw [tWrite_failed h]; exact .inr ⟨_, by rw [State.failCall_hist, State.setLatch_hist]; rfl⟩

theorem tRead_growsByOne (bus : Bus) (s : State) : (tRead bus s).All (GrowsByOne s) := by
  cases h : s.env.link.ask.1 with
  | true => rw [tRead_granted h]; exact .inr ⟨_, by rw [State.log_hist, State.setChannel_hist]; rfl⟩
  | false => rw [tRead_failed h]; exact .inr ⟨_, rfl⟩

theorem tConfig_growsByOne (d : Dir) (s : State) : (tConfig d s).All (GrowsByOne s) := by
  cases h : s.env.link.ask.1 with
  | true => rw [tConfig_granted h]; exact .inr ⟨_, rfl⟩
  | false => rw [tConfig_failed h]; exact .inr ⟨_, rfl⟩

theorem growsByOne_stepRelation : StepRelation GrowsByOne where
  refl _ := .inl rfl
  setShadow h := by rwa [GrowsByOne, State.setShadow_hist] at h
  emptied h := h
  filled h := h
  deliver _ := .inl rfl
  delay _ _ := .inr ⟨_, rfl⟩
  write := tWrite_growsByOne
  read := tRead_growsByOne
  config := tConfig_growsByOne

theorem runMicros_singleton_hist (c : Config) (op : Instr) (m : Micro) (k : Nat) (loc : Locals) (s : State) :
    GrowsByOne s (runMicros c op [m] k loc s) := by
  have h := growsByOne_stepRelation.microEffect c loc s m
  cases he : microEffect c loc s m <;> rw [he] at h <;> simp only [runMicros, he] <;> exact h

theorem microStep_growsByOne (c : Config) (s : State) : GrowsByOne s (microStep c s) := by
  obtain hseq | ⟨op, k, loc, hseq⟩ := s.seq.idle_or_run
  · exact .inl (congrArg State.hist (microStep_idle hseq))
  · cases hm : (microProgram c op)[k]? with
    | none => exact .inl (congrArg State.hist (microStep_pastEnd hseq hm))
    | some m => exact microStep_eq_runMicros hseq hm ▸ runMicros_singleton_hist c op m k loc s

/-- Settles O53: a micro-step makes at most one transport call or delay, and only a busy-poll read is made again. -/
theorem microStepAdvancesByOne : Obligations.MicroStepAdvancesByOne := by
  refine fun c s => ⟨microStep_growsByOne c s, fun op k loc hseq hk => ?_⟩
  have hm := List.getElem?_eq_getElem hk
  rw [microStep_eq_runMicros hseq hm]
  cases he : microEffect c loc s (microProgram c op)[k] with
  | go l t => exact .inr (.inl ⟨l, by rw [runMicros_go he]; rfl⟩)
  | again l t => exact .inr (.inr ⟨hm.trans (congrArg some (eq_poll_of_again he)), l, by rw [runMicros_again he]; rfl⟩)
  | finish r t => exact .inl (by rw [runMicros_finish he]; rfl)
  | stop status l t => exact .inl (by rw [runMicros_stop he]; rfl)

/-! ### One response an operation (R52, R123) -/

theorem outstanding_idle (h : s.seq = .idle) : outstanding s = s.env.program.length := by
  rw [outstanding, h]
  rfl

theorem outstanding_run {op : Instr} {k : Nat} (h : s.seq = .run op k loc) :
    outstanding s = s.env.program.length + 1 := by
  rw [outstanding, h]

/-- How many operations the host has been answered or has still before it. -/
def accounted (s : State) : Nat := s.env.responses.length + outstanding s

theorem accounted_park (s : State) (op : Instr) (k : Nat) (loc : Locals) :
    accounted (s.park op k loc) = s.env.responses.length + (s.env.program.length + 1) := rfl

theorem accounted_respond (s : State) (r : Response) :
    accounted (s.respond r) = s.env.responses.length + (s.env.program.length + 1) := by
  rw [accounted, outstanding_idle (State.respond_seq s r)]
  simp
  omega

/-- Whether it ends or parks, a run accounts for the one operation it runs. -/
theorem accounted_runMicros (c : Config) (op : Instr) (ms : List Micro) (k : Nat) (loc : Locals) (s : State) :
    accounted (runMicros c op ms k loc s) = s.env.responses.length + (s.env.program.length + 1) := by
  induction ms generalizing k loc s with
  | nil => rfl
  | cons m ms ih =>
    have hanswers := microEffect_sameAnswers c loc s m
    have hhost := microEffect_sameHost c loc s m
    cases he : microEffect c loc s m <;> rw [he] at hanswers hhost <;> rw [← hanswers.responses, ← hhost.program]
    · rw [runMicros_go he, ih]
    · rw [runMicros_again he, accounted_park]
    · rw [runMicros_finish he, accounted_respond]
    · rw [runMicros_stop he, accounted_respond]

theorem accounted_of_run {op : Instr} {k : Nat} (h : s.seq = .run op k loc) :
    accounted s = s.env.responses.length + (s.env.program.length + 1) := by
  rw [accounted, outstanding_run h]

theorem accounted_of_idle (h : s.seq = .idle) : accounted s = s.env.responses.length + s.env.program.length := by
  rw [accounted, outstanding_idle h]

theorem accounted_microStep (c : Config) (s : State) : accounted (microStep c s) = accounted s := by
  obtain hseq | ⟨op, k, loc, hseq⟩ := s.seq.idle_or_run
  · rw [microStep_idle hseq]
  · cases hm : (microProgram c op)[k]? with
    | none => rw [microStep_pastEnd hseq hm]
    | some m => rw [microStep_eq_runMicros hseq hm, accounted_runMicros, accounted_of_run hseq]

theorem accounted_advance (c : Config) (s : State) : accounted (advance c s) = accounted s := by
  rw [advance]
  obtain ⟨op, k, loc, -, ht⟩ | ⟨W, rest, i, hseq, hp, -, ht⟩ | ⟨W, rest, e, hseq, hp, -, ht⟩ | ⟨-, -, ht⟩ :=
    turn_cases c s <;> rw [ht]
  · exact accounted_microStep c s
  · rw [accounted_park, accounted_of_idle hseq, hp, List.length_cons]
  · rw [accounted_respond, accounted_of_idle hseq, hp, List.length_cons]

theorem accounted_advances (c : Config) (n : Nat) (s : State) : accounted (advances c n s) = accounted s := by
  induction n generalizing s with
  | zero => rfl
  | succ n ih => rw [advances_succ, ih, accounted_advance]

/-- Settles O47: every advance accounts for the same number of operations, and a step without reset is a number of advances. -/
theorem oneResponsePerOperation : Obligations.OneResponsePerOperation := by
  intro s t hs
  rw [step_eq_stepWith] at hs
  cases hdue : resetDue s with
  | none =>
    obtain ⟨n, -, rfl⟩ := microStepsRefineStep.2.1 _ s t hdue hs
    exact accounted_advances _ n s.afterSampling
  | some n =>
    rw [stepWith_reset hdue] at hs
    cases hs
    exact ⟨_, rfl, accounted_advances _ n s.afterSampling, rfl, rfl⟩

end

end Sys2Proof.Machine
end

section
/-! PROOFS. The host interface and reset (10_state.md sections 5 and 9, 70_reset_and_hazards.md sections 1 and 5): the statements that
say what a step, an issue or a reset is. -/

namespace Sys2Proof.Machine

/-- Settles O1: the components are those of `State.reset`, whose control latch is none. -/
theorem resetValues : Obligations.ResetValues :=
  ⟨rfl, rfl, rfl, rfl, rfl, rfl, rfl, rfl, rfl, rfl, fun S => by cases S <;> rfl, fun _ => rfl, fun _ => rfl⟩

/-- Settles O2: the step with a reset due is the advances before it and then the session start. -/
theorem resetAppliedAtAnyTime : Obligations.ResetAppliedAtAnyTime := fun s =>
  ⟨fun _ h => (step_eq_stepWith s).trans (stepWith_reset h), fun h => (step_eq_stepWith s).trans (stepWith_reset h)⟩

/-- Settles O6: a legal descriptor at the head of the program is the machine's turn in Idle. -/
theorem stepRunsDecodedOperation : Obligations.StepRunsDecodedOperation := by
  intro s W rest i hdue hseq hp hd
  rw [step, hdue]
  simp only [turn_issue (s := s.afterSampling) hseq hp hd]
  rfl

/-- Settles O7: so is an illegal one, which is answered at once. -/
theorem illegalDescriptorAnswered : Obligations.IllegalDescriptorAnswered := by
  intro s W rest e hdue hseq hp hd
  rw [step, hdue]
  simp only [turn_illegal (s := s.afterSampling) hseq hp hd]
  rfl

theorem resume_of_lt {c : Config} {op : Instr} {k : Nat} (h : k < (microProgram c op).length) (loc : Locals)
    (s : State) : resume c op k loc s = .next (runMicros c op ((microProgram c op).drop k) k loc s) := by
  rw [resume, List.drop_eq_getElem_cons h]

theorem resume_of_le {c : Config} {op : Instr} {k : Nat} (h : (microProgram c op).length ≤ k) (loc : Locals)
    (s : State) : resume c op k loc s = .fault .seqPastEnd := by
  rw [resume, List.drop_eq_nil_of_le h]

/-- Settles O8: at a Run position the machine's turn is to go on, which past the end of the micro-program it cannot. -/
theorem runningStepGoesOn : Obligations.RunningStepGoesOn := by
  intro s op k loc hdue hseq
  have hstep : step s = resume Config.standard op k loc s.afterSampling := by
    rw [step, hdue]
    simp only [turn_run (s := s.afterSampling) hseq]
  rw [hstep]
  split
  · next h => exact resume_of_lt h loc _
  · next h => exact resume_of_le (Nat.le_of_not_lt h) loc _

theorem issue_run {op i : Instr} {k : Nat} {loc : Locals} {s : State} (h : s.seq = .run op k loc) (ms : List Micro) :
    issue i ms s = .refused .notIdle := by
  rw [issue, h]

/-- Settles O9: every meaning is an issue, which is refused at a Run position. -/
theorem noOperationUnlessIdle : Obligations.NoOperationUnlessIdle := by
  intro i s op k loc h
  cases i <;> exact issue_run h _

/-- Settles O10: a quiescent machine's turn is to wait. -/
theorem quiescentMachineWaits : Obligations.QuiescentMachineWaits := by
  intro s ⟨hseq, hp⟩ hdue
  rw [step, hdue]
  simp only [turn_wait (s := s.afterSampling) hseq hp]

end Sys2Proof.Machine
end

section
/-! PROOFS. What refuses an operation before its first transport call (60_exceptions.md section 4): the sticky fault, and a
precondition. -/

namespace Sys2Proof.Machine

/-! ### The sticky fault (R248) -/

/-- DUMP opens its stream before it checks, so that its data is then empty (R215). -/
theorem perform_dump_faulted {c : Config} (hn : c.nPages ≠ 0) {s : State} (hf : s.fault = some .transport) :
    perform c .dump s = s.respond ⟨.transport, []⟩ := by
  obtain ⟨n, hn⟩ := Nat.exists_eq_succ_of_ne_zero hn
  have hprog : ∃ ms, microProgram c .dump = .openStream :: .check cmdlatchPre :: ms := by
    rw [microProgram, dumpProgram, hn]
    exact ⟨_, rfl⟩
  obtain ⟨ms, hprog⟩ := hprog
  rw [perform, hprog, runMicros_go rfl, runMicros_stop (check_faulted hf), errorData_dump, dumped, List.drop_length]

/-- Every other operation that touches the hardware begins with a check (R140, R160). -/
theorem exists_check_of_touchesHardware {i : Instr} (c : Config) (hi : touchesHardware i = true) (hd : i ≠ .dump) :
    ∃ pre ms, microProgram c i = .check pre :: ms := by
  cases i with
  | setpin => cases hi
  | map => cases hi
  | program => cases hi
  | dump => exact absurd rfl hd
  | _ => exact ⟨_, _, rfl⟩

theorem perform_faulted {c : Config} (hn : c.nPages ≠ 0) {i : Instr} (hi : touchesHardware i = true) {s : State}
    (hf : s.fault = some .transport) : perform c i s = s.respond ⟨.transport, []⟩ := by
  by_cases hd : i = .dump
  · exact hd ▸ perform_dump_faulted hn hf
  · obtain ⟨pre, ms, hprog⟩ := exists_check_of_touchesHardware c hi hd
    rw [perform, hprog, runMicros_check_faulted hd (by simp [hf])]

theorem standard_nPages_ne_zero : Config.standard.nPages ≠ 0 := by decide

/-- Settles O28: each of the eleven operations meets a check before its first transport call, and the check finds the fault. -/
theorem stickyFaultRefuses : Obligations.StickyFaultRefuses := fun i _ hseq hf hi =>
  (exec_idle i hseq).trans (congrArg _ (perform_faulted standard_nPages_ne_zero hi hf))

/-- An operation issued with the fault set leaves the history as it was: one that touches the hardware is refused, the others make
no event. -/
theorem perform_faulted_hist {c : Config} (hn : c.nPages ≠ 0) (i : Instr) {s : State} (hf : s.fault = some .transport) :
    (perform c i s).hist = s.hist := by
  cases hi : touchesHardware i with
  | true => rw [perform_faulted hn hi hf, State.respond_hist]
  | false =>
    cases i with
    | setpin bus pin on => rw [perform_setpin, State.respond_hist, State.setShadow_hist]
    | map address => rfl
    | program => rfl
    | _ => cases hi

/-! ### PRECONDITION (R247) -/

/-- A check that refuses ends the operation with nothing else changed. -/
theorem runMicros_check_refused {c : Config} {op : Instr} {pre : List (CtlSignal × Bool)} {ms : List Micro} {k : Nat}
    {loc : Locals} {s : State} (hop : op ≠ .dump) (hf : s.fault = none) (h : passes c pre s.ctlShadow = false) :
    runMicros c op (.check pre :: ms) k loc s = s.respond ⟨.precondition, []⟩ := by
  rw [runMicros_stop (check_refuses hf h), errorData_of_ne hop]

section
variable {c : Config} {s : State}

theorem perform_cmdlatch_refused (hf : s.fault = none) (h : passes c cmdlatchPre s.ctlShadow = false) (cmd : Byte) :
    perform c (.cmdlatch cmd) s = s.respond ⟨.precondition, []⟩ :=
  runMicros_check_refused (by simp) hf h

theorem perform_addrlatch_refused (hf : s.fault = none) (h : passes c addrlatchPre s.ctlShadow = false)
    (bytes : List Byte) : perform c (.addrlatch bytes) s = s.respond ⟨.precondition, []⟩ :=
  runMicros_check_refused (by simp) hf h

theorem perform_latchout_refused (hf : s.fault = none) (h : passes c latchoutPre s.ctlShadow = false) (n : Word) :
    perform c (.latchout n) s = s.respond ⟨.precondition, []⟩ :=
  runMicros_check_refused (by simp) hf h

theorem perform_busypoll_refused (hf : s.fault = none) (h : passes c (busypollPre c) s.ctlShadow = false) :
    perform c .busypoll s = s.respond ⟨.precondition, []⟩ :=
  runMicros_check_refused (by simp) hf h

end

/-- Settles O26: the check of each operation lists exactly these signals. -/
theorem preconditionRefuses : Obligations.PreconditionRefuses := by
  refine fun s hseq hf => ⟨fun cmd h => ?_, fun bytes h => ?_, fun n h => ?_, fun h => ?_⟩ <;> rw [exec_idle _ hseq]
  · rw [perform_cmdlatch_refused hf (refuses_cmdlatch.2 h)]
  · rw [perform_addrlatch_refused hf (refuses_addrlatch.2 h)]
  · rw [perform_latchout_refused hf (refuses_latchout.2 h)]
  · rw [perform_busypoll_refused hf (refuses_busypoll.2 ⟨rfl, h⟩)]

/-- Settles O41: the write of nWP comes before the first CMDLATCH's check, and touches none of the signals it lists. -/
theorem eraseRefusedLeavesNwpHigh : Obligations.EraseRefusedLeavesNwpHigh := by
  intro b s hseq hf hsig hg
  have hp : passes Config.standard cmdlatchPre (drivePinEnd Config.standard .nwp true s).ctlShadow = false := by
    simpa [refuses_cmdlatch, drivePinEnd, signal_setSignal standard_wellFormed] using hsig
  have hraised : (drivePinEnd Config.standard .nwp true s).fault = none := hf
  rw [exec_idle _ hseq, perform_erase_granted hf (Link.grants_succ hg).1]
  exact congrArg _ (runMicros_check_refused (by simp) hraised hp)

/-! ### Straight after reset (70_reset_and_hazards.md section 2) -/

/-- BUSYPOLL that passes its check answers OK, UNRESPONSIVE or TRANSPORT, or goes on with the response it found. -/
theorem perform_busypoll_status {c : Config} {s : State} (hf : s.fault = none)
    (hp : passes c (busypollPre c) s.ctlShadow = true) (hr : s.resp.status ≠ .precondition) :
    (perform c .busypoll s).resp.status ≠ .precondition := by
  have hprog : microProgram c .busypoll = [.check (busypollPre c), .poll, .answer .done] := rfl
  rw [perform, hprog, runMicros_go (check_passes hf hp)]
  cases he : microEffect c Locals.start s .poll with
  | go l t =>
    rw [runMicros_go he]
    exact Status.noConfusion
  | again l t =>
    have hsame := microEffect_sameAnswers c Locals.start s .poll
    rw [he] at hsame
    rwa [runMicros_again he, State.park_resp, hsame.resp]
  | finish r t =>
    obtain ⟨a, ha, -⟩ : ∃ a, Micro.poll = .answer a ∧ _ :=
      he ▸ microEffect_keepsMarkOrEnds c Locals.start s (m := .poll) (by simp)
    cases ha
  | stop status l t =>
    have hunrefused := microEffect_unrefused (c := c) (loc := Locals.start) (m := .poll) hf trivial
    rw [he] at hunrefused
    rw [runMicros_stop he]
    exact hunrefused

/-- Settles O5: in the reset shadow nRE and nWE are 0, and nCE too. -/
theorem resetStateChecks : Obligations.ResetStateChecks := by
  intro s cmd bytes n
  have hf : s.sessionStart.fault = none := rfl
  have hshadow : s.sessionStart.ctlShadow = 0x00 := rfl
  refine ⟨?_, ?_, ?_, perform Config.standard .busypoll s.sessionStart, exec_idle _ rfl, ?_⟩
  · rw [exec_idle _ rfl, perform_cmdlatch_refused hf (hshadow ▸ by decide)]
  · rw [exec_idle _ rfl, perform_addrlatch_refused hf (hshadow ▸ by decide)]
  · rw [exec_idle _ rfl, perform_latchout_refused hf (hshadow ▸ by decide)]
  · exact perform_busypoll_status hf (hshadow ▸ by decide) Status.noConfusion

/-! ### The history and the fault (10_state.md section 4) -/

/-- The history has only grown, and a fault that was set still is. -/
def Grown (s t : State) : Prop := (∃ es, t.hist = s.hist ++ es) ∧ (s.fault = some .transport → t.fault = some .transport)

theorem Grown.trans {s t u : State} (h : Grown s t) (h' : Grown t u) : Grown s u := by
  obtain ⟨⟨es, hes⟩, hf⟩ := h
  obtain ⟨⟨es', hes'⟩, hf'⟩ := h'
  exact ⟨⟨es ++ es', by rw [hes', hes, List.append_assoc]⟩, hf' ∘ hf⟩

/-- A transport call leaves the fault, or sets it. -/
def KeepsFault (s t : State) : Prop := t.fault = s.fault ∨ t.fault = some .transport

theorem tWrite_keepsFault (bus : Bus) (v : Byte) (s : State) : (tWrite bus v s).All (KeepsFault s) := by
  cases h : s.env.link.ask.1 with
  | true => rw [tWrite_granted h]; exact .inl (State.setLatch_fault ..)
  | false => rw [tWrite_failed h]; exact .inr rfl

theorem tRead_keepsFault (bus : Bus) (s : State) : (tRead bus s).All (KeepsFault s) := by
  cases h : s.env.link.ask.1 with
  | true => rw [tRead_granted h]; exact .inl (State.setChannel_fault ..)
  | false => rw [tRead_failed h]; exact .inr rfl

theorem tConfig_keepsFault (d : Dir) (s : State) : (tConfig d s).All (KeepsFault s) := by
  cases h : s.env.link.ask.1 with
  | true => rw [tConfig_granted h]; exact .inl rfl
  | false => rw [tConfig_failed h]; exact .inr rfl

theorem keepsFault_stepRelation : StepRelation KeepsFault where
  refl _ := .inl rfl
  setShadow h := by rwa [KeepsFault, State.setShadow_fault] at h
  emptied h := h
  filled h := h
  deliver _ := .inl rfl
  delay _ _ := .inl rfl
  write := tWrite_keepsFault
  read := tRead_keepsFault
  config := tConfig_keepsFault

theorem grown_of_growsByOne {s t : State} (hhist : GrowsByOne s t) (hfault : KeepsFault s t) : Grown s t := by
  refine ⟨?_, fun h => hfault.elim (·.trans h) id⟩
  obtain hhist | ⟨e, hhist⟩ := hhist
  · exact ⟨[], hhist.trans (List.append_nil _).symm⟩
  · exact ⟨[e], hhist⟩

theorem microEffect_grown (c : Config) (loc : Locals) (s : State) (m : Micro) :
    (microEffect c loc s m).All (Grown s) := by
  have hhist := growsByOne_stepRelation.microEffect c loc s m
  have hfault := keepsFault_stepRelation.microEffect c loc s m
  cases he : microEffect c loc s m <;> rw [he] at hhist hfault <;> exact grown_of_growsByOne hhist hfault

theorem grown_kept (c : Config) (s : State) : Kept c (Grown s) where
  park h := h
  respond h := h
  sampled h := h
  program h := h
  micro h m loc := (microEffect_grown c loc _ m).mono fun _ ht => h.trans ht

/-- Settles O46: no micro-step takes an event back or clears the fault, and an operation issued with the fault set makes no event. -/
theorem historyGrowsAndFaultStays : Obligations.HistoryGrowsAndFaultStays := by
  refine ⟨fun s t hdue hs => ?_, fun i s t hs hf => ?_⟩
  · exact (grown_kept Config.standard s).stepWith_unreset ⟨⟨[], (List.append_nil _).symm⟩, id⟩ hdue
      ((step_eq_stepWith s).symm.trans hs)
  · obtain ⟨-, rfl⟩ := exec_next hs
    exact perform_faulted_hist standard_nPages_ne_zero i hf

end Sys2Proof.Machine
end

section
/-! PROOFS. Frames, statuses and failures of every operation (10_state.md sections 2 to 4, 60_exceptions.md sections 1 and 4). Each is
said of a single micro-step (`writes`, `moves`, `statuses`) and then of the few micro-steps an operation is made of
(`vocabulary`), however often its loops go round. -/

namespace Sys2Proof.Machine

/-! ### The micro-steps an operation is made of -/

/-- The micro-steps of the parts a page read is made of, each loop gone round once. -/
def partsVocabulary (c : Config) : List Micro :=
  cmdlatchSteps 0 ++ addrlatchSteps [0] ++ busypollSteps c ++ latchoutSteps 1

/-- The micro-steps that occur in an operation, whatever its bytes, lists and counts. -/
def vocabulary (c : Config) : Instr → List Micro
  | .cmdlatch _ => cmdlatchProgram 0
  | .addrlatch _ => addrlatchProgram [0]
  | .latchout _ => latchoutProgram 1
  | .identify => cmdlatchSteps 0 ++ addrlatchSteps [0] ++ latchoutSteps 1 ++ [.answer .identify]
  | .pageread _ => partsVocabulary c ++ [.answer .obuf]
  | .dump => [.openStream, .deliver] ++ partsVocabulary c ++ [.answer .stream]
  | .erase _ => [.check [], .raise .nwp, .lower .nwp] ++ partsVocabulary c ++ [.answer .erase]
  | .setpin bus pin on => setpinProgram bus pin on
  | .flush bus => flushProgram bus
  | .read bus => readProgram bus
  | .setdir dir => setdirProgram dir
  | .busypoll => busypollProgram c
  | .map address => mapProgram address
  | .program => programProgram

section
variable {p : Micro → Bool} {c : Config}

theorem cmdlatchSteps_all (hdrive : ∀ b, p (.drive b) = p (.drive 0)) (h : (cmdlatchSteps 0).all p = true) (cmd : Byte) :
    (cmdlatchSteps cmd).all p = true := by
  rw [← h, cmdlatchSteps, cmdlatchSteps]
  simp only [List.all_cons, hdrive cmd]

theorem addressLoop_all (hdrive : ∀ b, p (.drive b) = p (.drive 0)) (h : (addressSteps 0).all p = true)
    (bytes : List Byte) : (bytes.flatMap addressSteps).all p = true := by
  induction bytes with
  | nil => rfl
  | cons b bs ih =>
    have hb : (addressSteps b).all p = (addressSteps 0).all p := by
      rw [addressSteps, addressSteps]
      simp only [List.all_cons, hdrive b]
    rw [List.flatMap_cons, List.all_append, hb, h, ih, Bool.true_and]

theorem addrlatchSteps_all (hdrive : ∀ b, p (.drive b) = p (.drive 0)) (h : (addrlatchSteps [0]).all p = true)
    (bytes : List Byte) : (addrlatchSteps bytes).all p = true := by
  simp only [addrlatchSteps, List.flatMap_singleton, List.all_append, Bool.and_eq_true] at h ⊢
  obtain ⟨⟨hfirst, hloop⟩, hlast⟩ := h
  exact ⟨⟨hfirst, addressLoop_all hdrive hloop bytes⟩, hlast⟩

theorem readCycles_all (h : readCycle.all p = true) (n : Nat) : (readCycles n).all p = true := by
  induction n with
  | zero => rfl
  | succ n ih => rw [readCycles, List.all_append, h, ih, Bool.true_and]

theorem latchoutSteps_all (h : (latchoutSteps 1).all p = true) (n : Nat) : (latchoutSteps n).all p = true := by
  simp only [latchoutSteps, List.all_append, Bool.and_eq_true] at h ⊢
  obtain ⟨⟨hfirst, hloop⟩, hlast⟩ := h
  simp only [readCycles, List.append_nil] at hloop
  exact ⟨⟨hfirst, readCycles_all hloop n⟩, hlast⟩

theorem partsVocabulary_all (h : (partsVocabulary c).all p = true) :
    (cmdlatchSteps 0).all p = true ∧ (addrlatchSteps [0]).all p = true ∧ (busypollSteps c).all p = true ∧
      (latchoutSteps 1).all p = true := by
  rw [partsVocabulary, List.all_append, List.all_append, List.all_append] at h
  simpa only [Bool.and_eq_true, and_assoc] using h

theorem pagereadSteps_all (hdrive : ∀ b, p (.drive b) = p (.drive 0)) (h : (partsVocabulary c).all p = true)
    (page : Word) : (pagereadSteps c page).all p = true := by
  obtain ⟨hcmd, haddr, hpoll, hout⟩ := partsVocabulary_all h
  simp only [pagereadSteps, List.all_append, cmdlatchSteps_all hdrive hcmd, addrlatchSteps_all hdrive haddr, hpoll,
    latchoutSteps_all hout, Bool.and_true]

theorem dumpSteps_all (hdrive : ∀ b, p (.drive b) = p (.drive 0)) (h : (partsVocabulary c).all p = true)
    (hdeliver : p .deliver = true) (i n : Nat) : (dumpSteps c i n).all p = true := by
  induction n generalizing i with
  | zero => rfl
  | succ n ih =>
    simp only [dumpSteps, List.all_append, pagereadSteps_all hdrive h, List.all_cons, hdeliver, List.all_nil, ih,
      Bool.and_true]

/-- What holds of the vocabulary, and does not depend on the byte driven, holds of every micro-step of the operation. -/
theorem microProgram_all (hdrive : ∀ b, p (.drive b) = p (.drive 0)) {i : Instr} (h : (vocabulary c i).all p = true) :
    (microProgram c i).all p = true := by
  cases i with
  | cmdlatch cmd =>
    rw [vocabulary, cmdlatchProgram, List.all_append, Bool.and_eq_true] at h
    rw [microProgram, cmdlatchProgram, List.all_append, cmdlatchSteps_all hdrive h.1, h.2, Bool.and_true]
  | addrlatch bytes =>
    rw [vocabulary, addrlatchProgram, List.all_append, Bool.and_eq_true] at h
    rw [microProgram, addrlatchProgram, List.all_append, addrlatchSteps_all hdrive h.1, h.2, Bool.and_true]
  | latchout n =>
    rw [vocabulary, latchoutProgram, List.all_append, Bool.and_eq_true] at h
    rw [microProgram, latchoutProgram, List.all_append, latchoutSteps_all h.1, h.2, Bool.and_true]
  | identify =>
    simp only [vocabulary, List.all_append, Bool.and_eq_true] at h
    obtain ⟨⟨⟨hcmd, haddr⟩, hout⟩, hanswer⟩ := h
    simp only [microProgram, identifyProgram, List.all_append, cmdlatchSteps_all hdrive hcmd,
      addrlatchSteps_all hdrive haddr, latchoutSteps_all hout, hanswer, Bool.and_true]
  | pageread page =>
    rw [vocabulary, List.all_append, Bool.and_eq_true] at h
    rw [microProgram, pagereadProgram, List.all_append, pagereadSteps_all hdrive h.1, h.2, Bool.and_true]
  | dump =>
    simp only [vocabulary, List.all_append, List.all_cons, Bool.and_eq_true] at h
    obtain ⟨⟨⟨hopen, hdeliver, -⟩, hparts⟩, hanswer⟩ := h
    simp only [microProgram, dumpProgram, List.all_append, List.all_cons, dumpSteps_all hdrive hparts hdeliver, hopen,
      hanswer, Bool.and_true]
  | erase block =>
    simp only [vocabulary, List.all_append, List.all_cons, Bool.and_eq_true] at h
    obtain ⟨⟨⟨hcheck, hraise, hlower, -⟩, hparts⟩, hanswer, -⟩ := h
    obtain ⟨hcmd, haddr, hpoll, hout⟩ := partsVocabulary_all hparts
    simp only [microProgram, eraseProgram, List.all_append, List.all_cons, List.all_nil, cmdlatchSteps_all hdrive hcmd,
      addrlatchSteps_all hdrive haddr, hpoll, latchoutSteps_all hout, hcheck, hraise, hlower, hanswer, Bool.and_true]
  | _ => exact h

end

/-! ### Components (10_state.md sections 2 to 4) -/

/-- The component that holds what is written to a bus. -/
def latchOf : Bus → Component
  | .io => .ioLatch
  | .ctl => .ctlLatch

/-- The component a read of a bus takes its byte from. -/
def channelOf : Bus → Component
  | .io => .dioIn
  | .ctl => .ctlIn

/-- The component that holds what is to be written to a bus. -/
def shadowOf : Bus → Component
  | .io => .ioShadow
  | .ctl => .ctlShadow

/-- The components every transport call may write. -/
def callWrites : List Component := [.fault, .hist, .link]

/-- The components a micro-step may write. -/
def Micro.writes : Micro → List Component
  | .assign bus _ _ => [shadowOf bus]
  | .flush bus => latchOf bus :: callWrites
  | .sample bus => channelOf bus :: callWrites
  | .config _ => .ioDir :: .lineDir :: callWrites
  | .raise _ => .ctlShadow :: .ctlLatch :: callWrites
  | .lower _ => .ctlShadow :: .ctlLatch :: callWrites
  | .drive _ => .ioShadow :: .ioLatch :: callWrites
  | .delay _ => [.hist]
  | .turnIn => .obuf :: .ioDir :: .lineDir :: callWrites
  | .fetchByte => .obuf :: .dioIn :: callWrites
  | .poll => .ctlIn :: callWrites
  | .deliver => [.stream]
  | .check _ => []
  | .openStream => []
  | .answer _ => []

theorem unchanged_refl (s : State) (comp : Component) : unchanged s s comp := by cases comp <;> rfl

theorem unchanged_trans {s t u : State} {comp : Component} (h : unchanged s t comp) (h' : unchanged t u comp) :
    unchanged s u comp := by
  cases comp <;> exact h'.trans h

theorem setShadow_unchanged {bus : Bus} {comp : Component} (h : comp ≠ shadowOf bus) (v : Byte) (s : State) :
    unchanged s (s.setShadow bus v) comp := by
  cases bus <;> cases comp <;> simp [unchanged, shadowOf] at h ⊢

theorem tWrite_unchanged {bus : Bus} {comp : Component} (h : comp ∉ latchOf bus :: callWrites) (v : Byte) (s : State) :
    (tWrite bus v s).All (unchanged s · comp) := by
  cases hask : s.env.link.ask.1 with
  | true =>
    rw [tWrite_granted hask]
    cases bus <;> cases comp <;> simp [callWrites, latchOf] at h <;> rfl
  | false =>
    rw [tWrite_failed hask]
    cases bus <;> cases comp <;> simp [callWrites, latchOf] at h <;> rfl

theorem tRead_unchanged {bus : Bus} {comp : Component} (h : comp ∉ channelOf bus :: callWrites) (s : State) :
    (tRead bus s).All (unchanged s · comp) := by
  cases hask : s.env.link.ask.1 with
  | true =>
    rw [tRead_granted hask]
    cases bus <;> cases comp <;> simp [callWrites, channelOf] at h <;> rfl
  | false =>
    rw [tRead_failed hask]
    cases comp <;> simp [callWrites] at h <;> rfl

theorem tConfig_unchanged {comp : Component} (h : comp ∉ Component.ioDir :: .lineDir :: callWrites) (d : Dir)
    (s : State) : (tConfig d s).All (unchanged s · comp) := by
  cases hask : s.env.link.ask.1 with
  | true =>
    rw [tConfig_granted hask]
    cases comp <;> simp [callWrites] at h <;> rfl
  | false =>
    rw [tConfig_failed hask]
    cases comp <;> simp [callWrites] at h <;> rfl

theorem flushBus_setShadow_unchanged {bus : Bus} {comp : Component}
    (h : comp ∉ shadowOf bus :: latchOf bus :: callWrites) (v : Byte) (s : State) :
    (flushBus bus (s.setShadow bus v)).All (unchanged s · comp) := by
  obtain ⟨hshadow, hcall⟩ := not_or.1 (List.mem_cons.not.1 h)
  exact (tWrite_unchanged hcall _ _).mono fun _ => unchanged_trans (setShadow_unchanged hshadow v s)

theorem setObuf_unchanged {comp : Component} (h : comp ≠ .obuf) (bytes : List Byte) (s : State) :
    unchanged s (s.setObuf bytes) comp := by
  cases comp <;> simp [unchanged] at h ⊢

/-- A micro-step changes nothing but what it writes, whether its call succeeds or fails. -/
theorem microEffect_unchanged {c : Config} {m : Micro} {comp : Component} (h : comp ∉ m.writes) (loc : Locals)
    (s : State) : (microEffect c loc s m).All (unchanged s · comp) := by
  cases m with
  | check pre =>
    rw [microEffect]
    split
    · exact unchanged_refl s comp
    · split <;> exact unchanged_refl s comp
  | assign bus pin on => exact setShadow_unchanged (List.mem_singleton.not.1 h) _ s
  | flush bus => exact afterCall_all (tWrite_unchanged h _ s) fun _ _ ht => ht
  | sample bus => exact afterCall_all (tRead_unchanged h s) fun _ _ ht => ht
  | config d => exact afterCall_all (tConfig_unchanged h d s) fun _ _ ht => ht
  | raise S => exact afterCall_all (flushBus_setShadow_unchanged (bus := .ctl) h _ s) fun _ _ ht => ht
  | lower S => exact afterCall_all (flushBus_setShadow_unchanged (bus := .ctl) h _ s) fun _ _ ht => ht
  | drive b => exact afterCall_all (flushBus_setShadow_unchanged (bus := .io) h b s) fun _ _ ht => ht
  | delay k => cases comp <;> simp [Micro.writes] at h <;> rfl
  | turnIn =>
    obtain ⟨hobuf, hcall⟩ := not_or.1 (List.mem_cons.not.1 h)
    exact afterCall_all ((tConfig_unchanged hcall .input _).mono fun _ => unchanged_trans (setObuf_unchanged hobuf [] s))
      fun _ _ ht => ht
  | fetchByte =>
    obtain ⟨hobuf, hcall⟩ := not_or.1 (List.mem_cons.not.1 h)
    exact afterCall_all (tRead_unchanged (bus := .io) hcall s)
      fun _ t ht => unchanged_trans ht (setObuf_unchanged hobuf _ t)
  | poll => exact afterCall_all (tRead_unchanged (bus := .ctl) h s) fun _ _ ht => afterPoll_all ht
  | openStream => exact unchanged_refl s comp
  | deliver => cases comp <;> simp [Micro.writes] at h <;> rfl
  | answer a => exact unchanged_refl s comp

/-- A step that begins or continues an operation is a run of some of its micro-steps. -/
theorem StepOf.eq_runMicros {i : Instr} {s t : State} (h : StepOf i s t) :
    ∃ ms k loc, (∀ m ∈ ms, m ∈ microProgram Config.standard i) ∧ t = runMicros Config.standard i ms k loc s := by
  obtain h | ⟨k, loc, h⟩ := h
  · obtain ⟨-, rfl⟩ := exec_next h
    exact ⟨_, 0, Locals.start, fun _ => id, rfl⟩
  · exact ⟨_, k, loc, fun _ => List.mem_of_mem_drop, eq_runMicros_of_resume h⟩

theorem microProgram_writes (i : Instr) :
    (microProgram Config.standard i).all (fun m => m.writes.all (mayWrite i).contains) = true := by
  refine microProgram_all (fun _ => rfl) ?_
  cases i with
  | setpin bus pin on => cases bus <;> rfl
  | flush bus => cases bus <;> rfl
  | read bus => cases bus <;> rfl
  | _ => rfl

theorem runMicros_unchanged {c : Config} {op : Instr} {ms : List Micro} {comp : Component} (h : ∀ m ∈ ms, comp ∉ m.writes)
    (k : Nat) (loc : Locals) (s : State) : unchanged s (runMicros c op ms k loc s) comp := by
  refine runMicros_keeps (P := (unchanged s · comp)) ?_ ?_ (fun m hm l u hu => ?_) k loc (unchanged_refl s comp)
  · intro u k loc hu
    cases comp <;> exact hu
  · intro u r hu
    cases comp <;> exact hu
  · exact (microEffect_unchanged (h m hm) l u).mono fun _ => unchanged_trans hu

/-- Settles O43: an operation's micro-steps write only the components listed for it. -/
theorem frameOfComponents : Obligations.FrameOfComponents := by
  intro i s t h
  obtain ⟨ms, k, loc, hms, rfl⟩ := h.eq_runMicros
  have hhost := runMicros_sameHost Config.standard i ms k loc s
  refine ⟨fun comp hcomp => runMicros_unchanged (fun m hm hw => hcomp ?_) k loc s, hhost.program, hhost.resetIn⟩
  exact List.contains_iff_mem.1 (List.all_eq_true.1 (List.all_eq_true.1 (microProgram_writes i) m (hms m hm)) comp hw)

/-! ### Control signals (10_state.md section 3) -/

/-- The control signals whose shadow bit a micro-step may change. -/
def Micro.moves (c : Config) : Micro → List CtlSignal
  | .assign .ctl pin _ => CtlSignal.all.filter fun S => c.pin S == pin
  | .raise S => [S]
  | .lower S => [S]
  | _ => []

/-- The signal has the same level in the control shadow of both states. -/
def SameSignal (c : Config) (S : CtlSignal) (s t : State) : Prop := signal c t.ctlShadow S = signal c s.ctlShadow S

theorem CtlSignal.mem_all (S : CtlSignal) : S ∈ CtlSignal.all := by cases S <;> decide

theorem drivePin_sameSignal {c : Config} (hc : c.wellFormed = true) {S T : CtlSignal} (h : T ≠ S) (level : Bool)
    (s : State) : (drivePin c S level s).All (SameSignal c T s) := by
  refine (tWrite_unchanged (bus := .ctl) (comp := .ctlShadow) (by decide) _ _).mono fun t ht => ?_
  rw [SameSignal, show t.ctlShadow = setSignal c s.ctlShadow S level from ht, signal_setSignal hc, if_neg h]

theorem microEffect_sameSignal {c : Config} (hc : c.wellFormed = true) {m : Micro} {S : CtlSignal} (h : S ∉ m.moves c)
    (loc : Locals) (s : State) : (microEffect c loc s m).All (SameSignal c S s) := by
  have hframe (hw : Component.ctlShadow ∉ m.writes) : (microEffect c loc s m).All (SameSignal c S s) :=
    (microEffect_unchanged hw loc s).mono fun _ ht => congrArg (signal c · S) ht
  cases m with
  | raise T => exact afterCall_all (drivePin_sameSignal hc (List.mem_singleton.not.1 h) true s) fun _ _ ht => ht
  | lower T => exact afterCall_all (drivePin_sameSignal hc (List.mem_singleton.not.1 h) false s) fun _ _ ht => ht
  | assign bus pin on =>
    cases bus with
    | io => exact hframe (by simp [Micro.writes, shadowOf])
    | ctl =>
      have hpin : (c.pin S).toNat ≠ pin.toNat := fun e =>
        h (List.mem_filter.2 ⟨CtlSignal.mem_all S, beq_iff_eq.2 (BitVec.eq_of_toNat_eq e)⟩)
      exact (setBit_getLsbD _ _ _ _ (c.pin S).isLt).trans (if_neg hpin)
  | flush bus => exact hframe (by cases bus <;> decide)
  | sample bus => exact hframe (by cases bus <;> decide)
  | _ => exact hframe (by simp [Micro.writes, callWrites])

theorem microProgram_moves (i : Instr) :
    (microProgram Config.standard i).all
      (fun m => (m.moves Config.standard).all (mayChange Config.standard i).contains) = true := by
  refine microProgram_all (fun _ => rfl) ?_
  cases i with
  | setpin bus pin on =>
    cases bus with
    | io => rfl
    | ctl =>
      simpa [vocabulary, setpinProgram, Micro.moves, mayChange] using fun S hS =>
        (em' (Config.standard.pin S = pin)).imp_right fun h => ⟨hS, h⟩
  | _ => rfl

/-- Settles O44: an operation's micro-steps move only the signals listed for it. -/
theorem frameOfControlBits : Obligations.FrameOfControlBits := by
  intro i s t h S hS
  obtain ⟨ms, k, loc, hms, rfl⟩ := h.eq_runMicros
  refine runMicros_keeps (P := SameSignal Config.standard S s) (fun _ _ _ hu => hu) (fun _ _ hu => hu)
    (fun m hm l u hu => ?_) k loc rfl
  have hmoves : S ∉ m.moves Config.standard := fun hw => hS <| List.contains_iff_mem.1
    (List.all_eq_true.1 (List.all_eq_true.1 (microProgram_moves i) m (hms m hm)) S hw)
  exact (microEffect_sameSignal standard_wellFormed hmoves l u).mono fun _ ht => Eq.trans ht hu

/-! ### Statuses (R242) -/

/-- The statuses an answer can have. -/
def Answer.statuses : Answer → List Status
  | .fixed r => [r.status]
  | .identify => [.ok, .idMismatch]
  | .erase => [.ok, .eraseFail]
  | _ => [.ok]

/-- The statuses a micro-step can end its operation with. -/
def Micro.statuses (c : Config) : Micro → List Status
  | .check pre => .transport :: if pre = [] then [] else [.precondition]
  | .poll => .transport :: if c.pollLimit.isSome then [.unresponsive] else []
  | .answer a => a.statuses
  | .assign _ _ _ => []
  | .delay _ => []
  | .openStream => []
  | .deliver => []
  | _ => [.transport]

/-- If the effect ends the operation, its status is listed. -/
def Effect.EndsWithin (l : List Status) : Effect → Prop
  | .finish r _ => r.status ∈ l
  | .stop status _ _ => status ∈ l
  | _ => True

theorem afterCall_endsWithin {α : Type} {l : List Status} {loc : Locals} {r : CallResult α} {next : α → State → Effect}
    (h : .transport ∈ l) (hn : ∀ a t, (next a t).EndsWithin l) : (afterCall loc r next).EndsWithin l := by
  cases r with
  | done a t => exact hn a t
  | failed t => exact h

theorem response_status_mem (c : Config) (loc : Locals) (s : State) (a : Answer) :
    (response c loc s a).status ∈ a.statuses := by
  cases a with
  | identify =>
    rw [response, idStatus]
    split <;> simp [Answer.statuses]
  | erase =>
    rw [response, eraseStatus]
    split <;> simp [Answer.statuses]
  | _ => exact List.mem_singleton_self _

theorem microEffect_endsWithin (c : Config) (loc : Locals) (s : State) (m : Micro) :
    (microEffect c loc s m).EndsWithin (m.statuses c) := by
  cases m with
  | check pre =>
    rw [microEffect]
    split
    · exact List.mem_cons_self
    · split
      · trivial
      · next hpre =>
        have hne : pre ≠ [] := by
          rintro rfl
          exact hpre rfl
        simp [Effect.EndsWithin, Micro.statuses, hne]
  | poll =>
    refine afterCall_endsWithin List.mem_cons_self fun v t => ?_
    unfold afterPoll
    split
    · trivial
    · split
      · next hlimit =>
        have hsome : c.pollLimit.isSome = true := by
          unfold limitReached at hlimit
          cases hl : c.pollLimit <;> simp_all
        simp [Effect.EndsWithin, Micro.statuses, hsome]
      · trivial
  | answer a => exact response_status_mem c loc s a
  | assign => trivial
  | delay => trivial
  | openStream => trivial
  | deliver => trivial
  | _ => exact afterCall_endsWithin (List.mem_singleton_self _) fun _ _ => trivial

theorem runMicros_status_mem {c : Config} {op : Instr} {ms : List Micro} {l : List Status}
    (hms : ∀ m ∈ ms, m.statuses c ⊆ l) {k : Nat} {loc : Locals} {s : State}
    (hend : (runMicros c op ms k loc s).seq = .idle) : (runMicros c op ms k loc s).resp.status ∈ l := by
  induction ms generalizing k loc s with
  | nil => cases hend
  | cons m ms ih =>
    have heff := microEffect_endsWithin c loc s m
    have hm := hms m List.mem_cons_self
    cases he : microEffect c loc s m with
    | go l' t =>
      rw [runMicros_go he] at hend ⊢
      exact ih (fun m' hm' => hms m' (List.mem_cons_of_mem m hm')) hend
    | again l' t =>
      rw [runMicros_again he] at hend
      cases hend
    | finish r t =>
      rw [he] at heff
      rw [runMicros_finish he]
      exact hm heff
    | stop status l' t =>
      rw [he] at heff
      rw [runMicros_stop he]
      exact hm heff

theorem microProgram_statuses (c : Config) (i : Instr) :
    (microProgram c i).all (fun m => (m.statuses c).all (possibleStatuses c i).contains) = true := by
  refine microProgram_all (fun _ => rfl) ?_
  cases hl : c.pollLimit.isSome <;> cases hn : c.busypollNceCheck <;> cases i <;>
    simp [vocabulary, partsVocabulary, possibleStatuses, Micro.statuses, Answer.statuses, hl, hn, setpinProgram,
      flushProgram, readProgram, setdirProgram, mapProgram, programProgram, cmdlatchProgram, addrlatchProgram,
      latchoutProgram, busypollProgram, cmdlatchSteps, addrlatchSteps, addressSteps, latchoutSteps, readCycles, readCycle,
      busypollSteps, busypollPre, cmdlatchPre, addrlatchPre, latchoutPre]

theorem microProgram_statuses_subset {c : Config} {i : Instr} {m : Micro} (hm : m ∈ microProgram c i) :
    m.statuses c ⊆ possibleStatuses c i := fun st hst =>
  List.contains_iff_mem.1 (List.all_eq_true.1 (List.all_eq_true.1 (microProgram_statuses c i) m hm) st hst)

/-- Settles O45: an operation ends with a status of one of its micro-steps. -/
theorem statusesPossible : Obligations.StatusesPossible := by
  refine fun c i s _ => ⟨fun hend => runMicros_status_mem (fun _ => microProgram_statuses_subset) hend,
    fun k loc t ht hend => ?_⟩
  obtain rfl := eq_runMicros_of_resume ht
  exact runMicros_status_mem (fun m hm => microProgram_statuses_subset (List.mem_of_mem_drop hm)) hend

/-! ### A failed transport call (R174, R248) -/

/-- The fault is set, the last event names the call, and the latch of a bus whose write failed is none. -/
def NamesFailure (t : State) : Prop :=
  t.fault = some .transport ∧ ∃ call, t.hist.getLast? = some (.tfail call) ∧ ∀ bus, call = .write bus → t.latch bus = none

/-- A call that succeeds leaves the fault clear, one that fails names its failure. -/
def CallResult.Honest {α : Type} : CallResult α → Prop
  | .done _ t => t.fault = none
  | .failed t => NamesFailure t

theorem tWrite_honest {bus : Bus} {v : Byte} {s : State} (hf : s.fault = none) : (tWrite bus v s).Honest := by
  cases h : s.env.link.ask.1 with
  | true =>
    rw [tWrite_granted h]
    exact (State.setLatch_fault ..).trans hf
  | false =>
    rw [tWrite_failed h]
    refine ⟨rfl, .write bus, by simp, ?_⟩
    rintro bus' ⟨⟩
    cases bus <;> rfl

theorem tRead_honest {bus : Bus} {s : State} (hf : s.fault = none) : (tRead bus s).Honest := by
  cases h : s.env.link.ask.1 with
  | true =>
    rw [tRead_granted h]
    exact (State.setChannel_fault ..).trans hf
  | false =>
    rw [tRead_failed h]
    exact ⟨rfl, .read bus, by simp, fun _ => TransportCall.noConfusion⟩

theorem tConfig_honest {d : Dir} {s : State} (hf : s.fault = none) : (tConfig d s).Honest := by
  cases h : s.env.link.ask.1 with
  | true =>
    rw [tConfig_granted h]
    exact hf
  | false =>
    rw [tConfig_failed h]
    exact ⟨rfl, .configIo, by simp, fun _ => TransportCall.noConfusion⟩

/-- TRANSPORT is the status exactly where the fault is set, and that is only at the end of the operation. -/
def Effect.Honest : Effect → Prop
  | .go _ t => t.fault = none
  | .again _ t => t.fault = none
  | .finish r t => t.fault = none ∧ r.status ≠ .transport
  | .stop status _ t => (status = .transport ∧ NamesFailure t) ∨ (status ≠ .transport ∧ t.fault = none)

theorem afterCall_honest {α : Type} {loc : Locals} {r : CallResult α} {next : α → State → Effect} (hr : r.Honest)
    (hn : ∀ a t, t.fault = none → (next a t).Honest) : (afterCall loc r next).Honest := by
  cases r with
  | done a t => exact hn a t hr
  | failed t => exact .inl ⟨rfl, hr⟩

theorem afterPoll_honest {c : Config} {loc : Locals} {v : Byte} {s : State} (hf : s.fault = none) :
    (afterPoll c loc v s).Honest := by
  unfold afterPoll
  split
  · exact hf
  · split
    · exact .inr ⟨Status.noConfusion, hf⟩
    · exact hf

/-- An answer that is not TRANSPORT by its operands. -/
def Micro.answersHonestly : Micro → Bool
  | .answer a => !a.statuses.contains .transport
  | _ => true

theorem microEffect_honest {c : Config} {loc : Locals} {s : State} {m : Micro} (hf : s.fault = none)
    (hm : m.answersHonestly = true) : (microEffect c loc s m).Honest := by
  cases m with
  | check pre =>
    cases hp : passes c pre s.ctlShadow with
    | true =>
      rw [check_passes hf hp]
      exact hf
    | false =>
      rw [check_refuses hf hp]
      exact .inr ⟨Status.noConfusion, hf⟩
  | assign bus pin on => exact (State.setShadow_fault ..).trans hf
  | flush bus => exact afterCall_honest (tWrite_honest hf) fun _ _ ht => ht
  | sample bus => exact afterCall_honest (tRead_honest hf) fun _ _ ht => ht
  | config d => exact afterCall_honest (tConfig_honest hf) fun _ _ ht => ht
  | raise S => exact afterCall_honest (tWrite_honest hf) fun _ _ ht => ht
  | lower S => exact afterCall_honest (tWrite_honest hf) fun _ _ ht => ht
  | drive b => exact afterCall_honest (tWrite_honest hf) fun _ _ ht => ht
  | delay k => exact hf
  | turnIn => exact afterCall_honest (tConfig_honest hf) fun _ _ ht => ht
  | fetchByte => exact afterCall_honest (tRead_honest hf) fun _ _ ht => ht
  | poll => exact afterCall_honest (tRead_honest hf) fun _ _ ht => afterPoll_honest ht
  | openStream => exact hf
  | deliver => exact hf
  | answer a =>
    refine ⟨hf, fun h => ?_⟩
    have hmem := response_status_mem c loc s a
    rw [h] at hmem
    simp [Micro.answersHonestly, hmem] at hm

/-- How an operation that was without the fault stands after a run: still without it and not answering TRANSPORT, or ended by the
call that failed. -/
theorem runMicros_honest {c : Config} {op : Instr} {ms : List Micro} (hms : ∀ m ∈ ms, m.answersHonestly = true) {k : Nat}
    {loc : Locals} {s : State} (hf : s.fault = none) :
    ((runMicros c op ms k loc s).fault = none ∧
      ((runMicros c op ms k loc s).seq = .idle → (runMicros c op ms k loc s).resp.status ≠ .transport)) ∨
    ∃ l t, runMicros c op ms k loc s = t.respond ⟨.transport, errorData op l t⟩ ∧ NamesFailure t := by
  induction ms generalizing k loc s with
  | nil => exact .inl ⟨hf, Sequencer.noConfusion⟩
  | cons m ms ih =>
    have heff := microEffect_honest (c := c) (loc := loc) hf (hms m List.mem_cons_self)
    cases he : microEffect c loc s m with
    | go l t =>
      rw [he] at heff
      rw [runMicros_go he]
      exact ih (fun m' hm' => hms m' (List.mem_cons_of_mem m hm')) heff
    | again l t =>
      rw [he] at heff
      rw [runMicros_again he]
      exact .inl ⟨heff, Sequencer.noConfusion⟩
    | finish r t =>
      rw [he] at heff
      obtain ⟨ht, hr⟩ := heff
      rw [runMicros_finish he]
      exact .inl ⟨ht, fun _ => hr⟩
    | stop status l t =>
      rw [he] at heff
      rw [runMicros_stop he]
      obtain ⟨rfl, ht⟩ | ⟨hr, ht⟩ := heff
      · exact .inr ⟨l, t, rfl, ht⟩
      · exact .inl ⟨ht, fun _ => hr⟩

theorem microProgram_answersHonestly (c : Config) (i : Instr) :
    (microProgram c i).all Micro.answersHonestly = true := by
  refine microProgram_all (fun _ => rfl) ?_
  cases i with
  | busypoll => simp [vocabulary, busypollProgram, busypollSteps, Micro.answersHonestly, Answer.statuses]
  | _ => rfl

/-- Settles O29: the failure of a call ends the operation with TRANSPORT at once, and nothing else gives TRANSPORT to an operation
without the fault. -/
theorem transportFailureStops : Obligations.TransportFailureStops := by
  intro i s t h hf
  obtain ⟨ms, k, loc, hms, rfl⟩ := h.eq_runMicros
  have hhonest : ∀ m ∈ ms, m.answersHonestly = true := fun m hm =>
    List.all_eq_true.1 (microProgram_answersHonestly _ i) m (hms m hm)
  obtain ⟨hclear, hstatus⟩ | ⟨l, t, ht, hfault, hcall⟩ := runMicros_honest (k := k) (loc := loc) hhonest hf
  · exact ⟨fun h => absurd (hclear.symm.trans h) (by simp), fun hseq h => absurd h (hstatus hseq)⟩
  · rw [ht]
    exact ⟨fun _ => ⟨rfl, rfl, fun hi => errorData_of_ne hi l t, hcall⟩, fun _ _ => hfault⟩

end Sys2Proof.Machine
end

section
/-! PROOFS. Family BP, READ and SETDIR (40_bus_primitive.md): one transport call after the check, accepted or refused. -/

namespace Sys2Proof.Machine

/-! ### READ (R143) -/

section
variable {c : Config} {bus : Bus} {d : Dir} {loc : Locals} {s : State}

theorem sample_goes (h : s.env.link.ask.1 = true) :
    microEffect c loc s (.sample bus) = .go { loc with value := [((s.channel bus).draw (freeByte bus)).1] }
      (((s.setLink s.env.link.ask.2).setChannel bus ((s.channel bus).draw (freeByte bus)).2).log
        (readEvent bus ((s.channel bus).draw (freeByte bus)).1)) := by
  simp [microEffect, tRead_granted h, afterCall]

theorem sample_stops (h : s.env.link.ask.1 = false) :
    microEffect c loc s (.sample bus) =
      .stop .transport loc ((s.setLink s.env.link.ask.2).failCall (.read bus)) := by
  simp [microEffect, tRead_failed h, afterCall]

theorem perform_read_granted (hf : s.fault = none) (h : s.env.link.ask.1 = true) :
    perform c (.read bus) s =
      (((s.setLink s.env.link.ask.2).setChannel bus ((s.channel bus).draw (freeByte bus)).2).log
        (readEvent bus ((s.channel bus).draw (freeByte bus)).1)).respond
        ⟨.ok, [((s.channel bus).draw (freeByte bus)).1]⟩ := by
  rw [perform, microProgram, readProgram, runMicros_check_nil hf, runMicros_go (sample_goes h), runMicros_answer, response]

theorem perform_read_failed (hf : s.fault = none) (h : s.env.link.ask.1 = false) :
    perform c (.read bus) s = ((s.setLink s.env.link.ask.2).failCall (.read bus)).respond ⟨.transport, []⟩ := by
  rw [perform, microProgram, readProgram, runMicros_check_nil hf, runMicros_stop (sample_stops h),
    errorData_of_ne (by simp)]

/-- A read is nothing the chip can see (R57, R263). -/
theorem chipView_append_readEvent (d : Option Dir) (h : List Event) (v : Byte) :
    chipView c d (h ++ [readEvent bus v]) = chipView c d h := by
  rw [chipView_append]
  cases bus <;> rfl

/-! ### SETDIR (R144) -/

theorem config_stops (h : s.env.link.ask.1 = false) :
    microEffect c loc s (.config d) =
      .stop .transport loc (((s.setLink s.env.link.ask.2).setLines none).failCall .configIo) := by
  simp [microEffect, tConfig_failed h, afterCall]

theorem perform_setdir_granted (hf : s.fault = none) (h : s.env.link.ask.1 = true) :
    perform c (.setdir d) s =
      State.respond { s.spend 1 0 0 with
        ioDir := d
        hist := s.hist ++ [.cfgIo d]
        env := { (s.spend 1 0 0).env with lineDir := some d } } ⟨.ok, []⟩ := by
  rw [perform, microProgram, setdirProgram, runMicros_check_nil hf, runMicros_go (config_goes h), runMicros_answer,
    response]

theorem perform_setdir_failed (hf : s.fault = none) (h : s.env.link.ask.1 = false) :
    perform c (.setdir d) s =
      (((s.setLink s.env.link.ask.2).setLines none).failCall .configIo).respond ⟨.transport, []⟩ := by
  rw [perform, microProgram, setdirProgram, runMicros_check_nil hf, runMicros_stop (config_stops h),
    errorData_of_ne (by simp)]

/-- Where the direction on the transport's side is not known, nothing is said of the I/O lines (U6). -/
theorem dioDriven_of_unknown (h : s.env.lineDir = none) : dioDriven s = none := by
  rw [dioDriven, h]
  rfl

theorem dioLevel_of_unknown (h : s.env.lineDir = none) (k : PinPos) : dioLevel s k = none := by
  rw [dioLevel, dioDriven_of_unknown h]
  rfl

end

/-- Settles O17: READ is its check and one read, which the transport accepts or refuses. -/
theorem readAnswers : Obligations.ReadAnswers := by
  intro bus
  refine ⟨decode_encode_read _ bus, fun s hidle => ?_⟩
  rw [exec_idle _ hidle]
  refine ⟨fun hf => ?faulted, fun hf hok => ⟨_, rfl, ?granted, fun d => chipView_append_readEvent d _ _⟩,
    fun hf hbad => ?failed⟩
  case faulted => rw [perform_faulted standard_nPages_ne_zero rfl (SessionFault.eq_transport hf)]
  case granted =>
    rw [perform_read_granted hf hok]
    cases bus <;> rfl
  case failed =>
    rw [perform_read_failed hf hbad]
    rfl

/-- Settles O18: SETDIR is its check and one configure call, which the transport accepts or refuses. -/
theorem setdirAnswers : Obligations.SetdirAnswers := by
  intro d s hidle
  rw [exec_idle _ hidle]
  refine ⟨fun hf => ?faulted, fun hf hok => ?granted, fun hf hbad => ⟨_, rfl, ?failed, ?_, fun k => ?_⟩⟩
  case faulted => rw [perform_faulted standard_nPages_ne_zero rfl (SessionFault.eq_transport hf)]
  case granted =>
    rw [perform_setdir_granted hf hok]
    rfl
  case failed =>
    rw [perform_setdir_failed hf hbad]
    rfl
  · rw [perform_setdir_failed hf hbad]
    exact dioDriven_of_unknown rfl
  · rw [perform_setdir_failed hf hbad]
    exact dioLevel_of_unknown rfl k

end Sys2Proof.Machine
end

section
/-! PROOFS. Operations that run to OK at once (41_protocol_engine.md, 43_flash_operations.md): their parts lead on one after the
other, from the preconditions to the end state. -/

namespace Sys2Proof.Machine

/-! ### ADDRLATCH and BUSYPOLL (R166, R172) -/

section
variable {c : Config} {s : State}

theorem perform_addrlatch (hc : c.wellFormed = true) {bytes : List Byte} (hf : s.fault = none)
    (hp : passes c addrlatchPre s.ctlShadow = true) (hg : s.env.link.grants (2 + 3 * bytes.length) = true) :
    perform c (.addrlatch bytes) s = (addrlatchEnd c bytes s).respond ⟨.ok, []⟩ :=
  perform_leads (a := .done) rfl (addrlatchSteps_leads hc hf hp hg)

theorem perform_busypoll_ready (hf : s.fault = none) (hp : passes c (busypollPre c) s.ctlShadow = true)
    (hg : s.env.link.grants 1 = true) (hr : (s.ctlAhead 1).map (ready c) = [true]) :
    perform c .busypoll s = (pollEnd 1 s).respond ⟨.ok, []⟩ :=
  perform_leads (a := .done) rfl (busypollSteps_leads hf hp hg hr rfl)

/-! ### IDENTIFY (R210) -/

theorem signal_addrlatchShadow_of_ne_nil (hc : c.wellFormed = true) (v : Byte) {bytes : List Byte} (hb : bytes ≠ [])
    (T : CtlSignal) :
    signal c (addrlatchShadow c v bytes) T = if T = .ale then false else if T = .nwe then true else signal c v T := by
  obtain ⟨b, bs, rfl⟩ := List.exists_cons_of_ne_nil hb
  exact signal_addrlatchShadow hc v b bs T

theorem perform_identify (hc : c.wellFormed = true) (hf : s.fault = none) (hce : signal c s.ctlShadow .nce = false)
    (hre : signal c s.ctlShadow .nre = true) (hg : s.env.link.grants 27 = true) :
    perform c .identify s =
      (latchoutEnd c idBytes (addrlatchEnd c [idAddress] (cmdlatchEnd c cmdReadId s))).respond
        ⟨idStatus c (s.dioAhead idBytes), s.dioAhead idBytes⟩ := by
  obtain ⟨hg, h3⟩ := Link.grants_split (a := 5 + 5) (b := 17) hg
  obtain ⟨h1, h2⟩ := Link.grants_split hg
  rw [Link.spend_add] at h3
  refine perform_leads (a := .identify) rfl (loc' := Locals.start) (Leads.append (Leads.append
    (cmdlatchSteps_leads hc hf (passes_cmdlatch.2 ⟨hce, hre⟩) h1)
    (addrlatchSteps_leads hc hf (passes_addrlatch.2 ?_) h2))
    (latchoutSteps_leads hf (passes_latchout.2 ?_) h3))
  all_goals simp [cmdlatchEnd, addrlatchEnd, signal_cmdlatchShadow hc, signal_addrlatchShadow hc, hce, hre]

/-! ### PAGEREAD and DUMP (R212, R215) -/

theorem perform_pageread (hc : c.wellFormed = true) {page : Word} (hf : s.fault = none)
    (hce : signal c s.ctlShadow .nce = false) (hre : signal c s.ctlShadow .nre = true)
    (hg : s.env.link.grants (pagereadCalls c 1) = true) (hr : (s.ctlAhead 1).map (ready c) = [true]) :
    perform c (.pageread page) s = (pagereadEnd c page 1 s).respond ⟨.ok, s.dioAhead c.pageBytes⟩ := by
  rw [perform_leads (a := .obuf) rfl (pagereadSteps_leads hc hf hce hre hg hr rfl), response, pagereadEnd_obuf]

theorem perform_dump (hc : c.wellFormed = true) (hf : s.fault = none) (hce : signal c s.ctlShadow .nce = false)
    (hre : signal c s.ctlShadow .nre = true) (hg : s.env.link.grants (c.nPages * pagereadCalls c 1) = true)
    (hr : (s.ctlAhead c.nPages).map (ready c) = List.replicate c.nPages true) :
    perform c .dump s = (dumpEnd c 0 c.nPages s).respond ⟨.ok, s.dioAhead (c.nPages * c.pageBytes)⟩ := by
  have hopen : Leads c [.openStream] Locals.start s { Locals.start with mark := s.env.stream.length } s :=
    ⟨_, _, rfl, rfl, rfl⟩
  rw [perform_leads (a := .stream) rfl (hopen.append (dumpSteps_leads hc hf hce hre hg hr rfl)), response, dumped,
    dumpEnd_stream, List.drop_left]

end

/-- Settles O20: the micro-steps lead from the preconditions to `addrlatchEnd`. -/
theorem addrlatchCompletes : Obligations.AddrlatchCompletes := fun bytes _ hidle hf hce hcle hre hg =>
  (exec_idle (.addrlatch bytes) hidle).trans
    (congrArg _ (perform_addrlatch standard_wellFormed hf (passes_addrlatch.2 ⟨hce, hcle, hre⟩) hg))

/-- Settles O22: one read, which is ready. -/
theorem busypollCompletesWhenReady : Obligations.BusypollCompletesWhenReady := fun _ hidle hf hce hg hr =>
  (exec_idle .busypoll hidle).trans (congrArg _ (perform_busypoll_ready hf (passes_busypoll.2 fun _ => hce) hg hr))

/-- Settles O34: the three parts lead on, and the compare is over the bytes the third one read. -/
theorem identifyCompletes : Obligations.IdentifyCompletes := fun _ hidle hf hce hre hg =>
  (exec_idle .identify hidle).trans (congrArg _ (perform_identify standard_wellFormed hf hce hre hg))

/-- Settles O37: the loop's pages lead on, and what it handed over is every byte the device answered. -/
theorem dumpCompletes : Obligations.DumpCompletes := by
  intro s hidle hf hce hre hg hr
  refine ⟨(exec_idle .dump hidle).trans (congrArg _ (perform_dump standard_wellFormed hf hce hre hg hr)), ?_⟩
  exact dumpEnd_stream Config.standard 0 262144 s

end Sys2Proof.Machine
end

section
/-! PROOFS. Busy waits (41_protocol_engine.md section 5, 60_exceptions.md section 4). While the busy-poll reads of any operation are
not ready, each step makes one read and comes back to the same place (`stepsWith_unready`); what follows is the operation's own
business: a ready read, the limit, or more waiting. -/

namespace Sys2Proof.Machine

/-! ### The state after reads of the control bus -/

@[simp] theorem pollEnd_zero (s : State) : pollEnd 0 s = s := by
  ext1
  case hist => exact List.append_nil _
  all_goals rfl

theorem pollEnd_pollEnd (m n : Nat) (s : State) : pollEnd n (pollEnd m s) = pollEnd (m + n) s := by
  ext1
  case env => ext1 <;> simp [pollEnd, State.spend, Link.spend_add, Channel.skip_add, Channel.skip]
  all_goals simp [pollEnd, State.spend, State.ctlAhead, Channel.ahead_add]

theorem State.park_self {s : State} {op : Instr} {k : Nat} {loc : Locals} (h : s.seq = .run op k loc) :
    s.park op k loc = s := by
  rw [State.park, ← h]

theorem ctlAhead_add (s : State) (m n : Nat) : s.ctlAhead (m + n) = s.ctlAhead m ++ (pollEnd m s).ctlAhead n :=
  Channel.ahead_add _ m n _

section
variable {c : Config} {s : State}

/-- Reads of which the first n have an answer known, taken apart. -/
theorem ready_split {m n : Nat} {us vs : List Bool} (h : (s.ctlAhead (m + n)).map (ready c) = us ++ vs)
    (hm : us.length = m) :
    (s.ctlAhead m).map (ready c) = us ∧ ((pollEnd m s).ctlAhead n).map (ready c) = vs := by
  rw [ctlAhead_add, List.map_append] at h
  exact List.append_inj h (by simp [hm, State.ctlAhead])

/-! ### Steps under any configuration, the reset input at rest -/

theorem stepWith_run {op : Instr} {k : Nat} {loc : Locals} (h : s.env.resetIn = []) (hseq : s.seq = .run op k loc) :
    stepWith c s = resume c op k loc s := by
  simp [stepWith, resetDue, h, afterSampling_of_nil h, turn_run hseq]

/-- The state once the host has issued a descriptor (R52). -/
def State.issued (s : State) (rest : List Descriptor) : State := { s with env := { s.env with program := rest } }

theorem stepWith_issue {W : Descriptor} {rest : List Descriptor} {i : Instr} (h : s.env.resetIn = [])
    (hseq : s.seq = .idle) (hp : s.env.program = W :: rest) (hd : decode c W = .ok i) :
    stepWith c s = .next (perform c i (s.issued rest)) := by
  simp [stepWith, resetDue, h, afterSampling_of_nil h, turn_issue hseq hp hd, State.issued]

theorem stepsWith_succ {n : Nat} {t : State} (h : stepWith c s = .next t) : stepsWith c (n + 1) s = stepsWith c n t := by
  rw [stepsWith, h]

theorem run_of_next {M : Host.Core} {s t : M.State} (h : M.step s = .next t) (n : Nat) : M.run (n + 1) s = M.run n t := by
  rw [Host.Core.run, h]

theorem run_of_fault {M : Host.Core} {s : M.State} {r : M.Fault} (h : M.step s = .fault r) (n : Nat) :
    M.run (n + 1) s = .fault r := by
  rw [Host.Core.run, h]

theorem run_of_refused {M : Host.Core} {s : M.State} {r : M.Refusal} (h : M.step s = .refused r) (n : Nat) :
    M.run (n + 1) s = .refused r := by
  rw [Host.Core.run, h]

/-- The host's run of the machine is its steps under the standard configuration. -/
theorem core_run_eq_stepsWith (n : Nat) (s : State) : Sys2Proof.core.run n s = stepsWith Config.standard n s := by
  induction n generalizing s with
  | zero => rfl
  | succ n ih =>
    rw [stepsWith, ← step_eq_stepWith]
    cases hs : step s with
    | next t => exact (run_of_next (M := Sys2Proof.core) hs n).trans (ih t)
    | fault r => exact run_of_fault (M := Sys2Proof.core) hs n
    | refused r => exact run_of_refused (M := Sys2Proof.core) hs n

theorem resume_of_drop {op : Instr} {k : Nat} {m : Micro} {ms : List Micro} (h : (microProgram c op).drop k = m :: ms)
    (loc : Locals) (s : State) : resume c op k loc s = .next (runMicros c op (m :: ms) k loc s) := by
  rw [resume, h]

/-! ### Reads that are not ready -/

variable {op : Instr} {k : Nat} {ms ns : List Micro}

/-- n reads that are not ready take n steps, after which the operation stands before the same read, n reads on. -/
theorem stepsWith_unready (hk : (microProgram c op).drop k = .poll :: ns) {n : Nat} {loc : Locals}
    (hreset : s.env.resetIn = []) (hg : s.env.link.grants n = true)
    (hr : (s.ctlAhead n).map (ready c) = List.replicate n false)
    (hl : ∀ j < n, limitReached c (loc.polls + j + 1) = false) :
    stepsWith c n (runMicros c op (.poll :: ns) k loc s) =
      .next (runMicros c op (.poll :: ns) k { loc with polls := loc.polls + n } (pollEnd n s)) := by
  induction n generalizing loc s with
  | zero => rw [stepsWith, pollEnd_zero]; rfl
  | succ n ih =>
    rw [Nat.add_comm] at hg hr
    obtain ⟨hg1, hg2⟩ := Link.grants_split hg
    obtain ⟨hr1, hr2⟩ := ready_split (hr.trans (List.replicate_add 1 n false)) List.length_replicate
    have hl0 : limitReached c (loc.polls + 1) = false := hl 0 (Nat.succ_pos n)
    have hl' : ∀ j < n, limitReached c (loc.polls + 1 + j + 1) = false := fun j hj => by
      rw [Nat.add_right_comm loc.polls 1 j]
      exact hl (j + 1) (Nat.succ_lt_succ hj)
    rw [runMicros_again (poll_unready (Link.grants_succ hg1).1 hr1 hl0),
      stepsWith_succ ((stepWith_run (s := (pollEnd 1 s).park op k _) hreset rfl).trans (resume_of_drop hk _ _)),
      runMicros_park, ih (s := pollEnd 1 s) (loc := { loc with polls := loc.polls + 1 }) hreset hg2 hr2 hl',
      pollEnd_pollEnd, Nat.add_comm 1 n, Nat.add_right_comm]
    rfl

/-- With no limit, n reads that are not ready and one that is end the wait after n steps. -/
theorem stepsWith_ready (hk : (microProgram c op).drop k = .poll :: ns) {n : Nat} {loc : Locals}
    (hc : c.pollLimit = none) (hreset : s.env.resetIn = []) (hg : s.env.link.grants (n + 1) = true)
    (hr : (s.ctlAhead (n + 1)).map (ready c) = List.replicate n false ++ [true]) :
    stepsWith c n (runMicros c op (.poll :: ns) k loc s) =
      .next (runMicros c op ns (k + 1) { loc with polls := 0 } (pollEnd (n + 1) s)) := by
  obtain ⟨hg1, hg2⟩ := Link.grants_split hg
  obtain ⟨hr1, hr2⟩ := ready_split hr List.length_replicate
  rw [stepsWith_unready hk hreset hg1 hr1 fun _ _ => by rw [limitReached, hc],
    runMicros_go (poll_ready (Link.grants_succ hg2).1 hr2), pollEnd_pollEnd]

/-- An operation issued, whose micro-steps before its first busy-poll read lead on: with n reads not ready and the next one ready,
n + 1 steps take it past the wait. -/
theorem stepsWith_issue_ready {i : Instr} {rest : List Descriptor} {n : Nat} {t : State}
    (hprog : microProgram c i = ms ++ .poll :: ns) (hwf : WellFormed c i = true) (hc : c.pollLimit = none)
    (hseq : s.seq = .idle) (hreset : s.env.resetIn = []) (hp : s.env.program = encode i :: rest)
    (hlead : Leads c ms Locals.start (s.issued rest) Locals.start t)
    (ht : t.env.resetIn = []) (hg : t.env.link.grants (n + 1) = true)
    (hr : (t.ctlAhead (n + 1)).map (ready c) = List.replicate n false ++ [true]) :
    stepsWith c (n + 1) s = .next (runMicros c i ns (ms.length + 1) Locals.start (pollEnd (n + 1) t)) := by
  have hk : (microProgram c i).drop ms.length = .poll :: ns := by rw [hprog, List.drop_left]
  have hissue := stepWith_issue hreset hseq hp (decodeOfEncodeIsIdentity c i hwf)
  rw [perform, hprog, runMicros_leads hlead, Nat.zero_add] at hissue
  rw [stepsWith_succ hissue, stepsWith_ready hk hc ht hg hr]
  rfl

end

/-! ### BUSYPOLL (R171, R172) -/

/-- Settles O23: the one micro-step before the read is the check, and the answer comes after it. -/
theorem busypollAnswersAtFirstReadyRead : Obligations.BusypollAnswersAtFirstReadyRead := by
  intro n s rest hidle hf hce hreset hp hg hr
  have hcheck : Leads Config.standard [.check (busypollPre Config.standard)] Locals.start (s.issued rest)
      Locals.start (s.issued rest) :=
    ⟨_, _, check_passes hf (passes_busypoll.2 fun _ => hce), rfl, rfl⟩
  rw [core_run_eq_stepsWith, stepsWith_issue_ready (ns := [.answer .done]) rfl rfl rfl hidle hreset hp hcheck hreset hg hr,
    runMicros_answer]
  rfl

/-- Settles O24: from the read on, n reads that are not ready bring the operation back to it. -/
theorem busypollNeverAnswersUnready : Obligations.BusypollNeverAnswersUnready := by
  intro n p v m s hseq hreset hg hr
  have hk : (microProgram Config.standard .busypoll).drop 1 = [.poll, .answer .done] := rfl
  rw [core_run_eq_stepsWith]
  cases n with
  | zero => exact congrArg _ ((State.park_self hseq).symm.trans (by rw [pollEnd_zero]; rfl))
  | succ n =>
    obtain ⟨hg1, hg2⟩ := Link.grants_split hg
    obtain ⟨hr1, hr2⟩ := ready_split (hr.trans List.replicate_succ') List.length_replicate
    rw [stepsWith_succ ((stepWith_run hreset hseq).trans (resume_of_drop hk _ _)),
      stepsWith_unready hk hreset hg1 hr1 fun _ _ => rfl,
      runMicros_again (poll_unready (Link.grants_succ hg2).1 hr2 rfl), pollEnd_pollEnd]
    rfl

theorem limitReached_of_some {c : Config} {L : Nat} (h : c.pollLimit = some L) (n : Nat) :
    limitReached c n = decide (L ≤ n) := by
  rw [limitReached, h]

/-- A busy-poll read that is not ready, at the limit (R16, R171). -/
theorem poll_gives_up {c : Config} {loc : Locals} {s : State} (h : s.env.link.ask.1 = true)
    (hr : (s.ctlAhead 1).map (ready c) = [false]) (hl : limitReached c (loc.polls + 1) = true) :
    microEffect c loc s .poll = .stop .unresponsive loc (pollEnd 1 s) := by
  have hr' : ready c (s.env.ctlIn.draw Config.freeCtlByte).1 = false := by
    simpa [State.ctlAhead, Channel.ahead] using hr
  simp only [microEffect, tRead_granted h, afterCall, afterPoll, State.channel_ctl, freeByte]
  rw [if_neg (by simp [hr']), if_pos hl]
  rfl

/-- Settles O25: L - 1 reads that are not ready bring the operation back to its read, and the next one reaches the limit. -/
theorem pollLimitGivesUp : Obligations.PollLimitGivesUp := by
  intro c L s rest hL hpos hidle hf hce hreset hp hg hr
  obtain ⟨n, rfl⟩ : ∃ n, L = n + 1 := ⟨L - 1, by omega⟩
  have hk : (microProgram c .busypoll).drop 1 = [.poll, .answer .done] := rfl
  have hissue := stepWith_issue hreset hidle hp (decode_encode_busypoll c)
  rw [perform, show microProgram c .busypoll = [.check (busypollPre c), .poll, .answer .done] from rfl,
    runMicros_go (check_passes (s := s.issued rest) hf (passes_busypoll.2 hce))] at hissue
  obtain ⟨hg1, hg2⟩ := Link.grants_split hg
  obtain ⟨hr1, hr2⟩ := ready_split (hr.trans List.replicate_succ') List.length_replicate
  have hbelow : ∀ j < n, limitReached c (Locals.start.polls + j + 1) = false := fun j hj => by
    rw [limitReached_of_some hL]
    exact decide_eq_false (by simp only [Locals.start]; omega)
  have hat : limitReached c (Locals.start.polls + n + 1) = true := by
    rw [limitReached_of_some hL]
    exact decide_eq_true (by simp only [Locals.start]; omega)
  rw [stepsWith_succ hissue,
    stepsWith_unready (s := (s.issued rest)) hk hreset hg1 hr1 hbelow,
    runMicros_stop (poll_gives_up (s := pollEnd n (s.issued rest)) (Link.grants_succ hg2).1 hr2 hat), pollEnd_pollEnd,
    errorData_of_ne (by simp)]
  rfl

/-! ### PAGEREAD (R212) -/

section
variable {c : Config} {s : State}

/-- The micro-steps of a page read up to its busy-poll read. -/
def pagereadHead (c : Config) (page : Word) : List Micro :=
  cmdlatchSteps cmdReadSetup ++ addrlatchSteps (mapCycles (readAddress c page)) ++ cmdlatchSteps cmdReadConfirm ++
    [.check (busypollPre c)]

/-- The state a page read comes to its busy-poll read in. -/
def pagereadHeadEnd (c : Config) (page : Word) (s : State) : State :=
  cmdlatchEnd c cmdReadConfirm (addrlatchEnd c (mapCycles (readAddress c page)) (cmdlatchEnd c cmdReadSetup s))

theorem pagereadSteps_eq (c : Config) (page : Word) :
    pagereadSteps c page = pagereadHead c page ++ .poll :: latchoutSteps c.pageBytes := by
  simp [pagereadSteps, pagereadHead, busypollSteps]

theorem signal_pagereadHeadEnd (hc : c.wellFormed = true) (page : Word) (s : State) (T : CtlSignal) :
    signal c (pagereadHeadEnd c page s).ctlShadow T =
      if T = .cle then false else if T = .nwe then true else if T = .ale then false else signal c s.ctlShadow T := by
  have hb : mapCycles (readAddress c page) ≠ [] := List.cons_ne_nil _ _
  cases T <;>
    simp [pagereadHeadEnd, cmdlatchEnd, addrlatchEnd, signal_cmdlatchShadow hc, signal_addrlatchShadow_of_ne_nil hc _ hb]

theorem pagereadHead_leads (hc : c.wellFormed = true) {page : Word} {loc : Locals} (hf : s.fault = none)
    (hce : signal c s.ctlShadow .nce = false) (hre : signal c s.ctlShadow .nre = true)
    (hg : s.env.link.grants (5 + 17 + 5) = true) :
    Leads c (pagereadHead c page) loc s loc (pagereadHeadEnd c page s) := by
  obtain ⟨hg, h3⟩ := Link.grants_split hg
  obtain ⟨h1, h2⟩ := Link.grants_split hg
  rw [Link.spend_add] at h3
  have hb : mapCycles (readAddress c page) ≠ [] := List.cons_ne_nil _ _
  refine Leads.append (Leads.append (Leads.append
    (cmdlatchSteps_leads hc hf (passes_cmdlatch.2 ⟨hce, hre⟩) h1)
    (addrlatchSteps_leads hc hf (passes_addrlatch.2 ?_) h2))
    (cmdlatchSteps_leads hc hf (passes_cmdlatch.2 ?_) h3))
    ⟨_, _, check_passes hf (passes_busypoll.2 fun _ => ?_), rfl, rfl⟩
  · simp [cmdlatchEnd, signal_cmdlatchShadow hc, hce, hre]
  · simp [cmdlatchEnd, addrlatchEnd, signal_cmdlatchShadow hc, signal_addrlatchShadow_of_ne_nil hc _ hb, hce, hre]
  · exact (signal_pagereadHeadEnd hc page s .nce).trans hce

theorem pagereadHeadEnd_link (c : Config) (page : Word) (s : State) :
    (pagereadHeadEnd c page s).env.link = s.env.link.spend (5 + 17 + 5) := by
  rw [Link.spend_add, Link.spend_add]
  rfl

/-- What is left of a PAGEREAD after its busy wait (R168, R212). -/
theorem runMicros_pagereadTail (hc : c.wellFormed = true) {page : Word} {reads k : Nat} {loc : Locals} (hf : s.fault = none)
    (hce : signal c s.ctlShadow .nce = false) (hg : s.env.link.grants (pagereadCalls c reads) = true) :
    runMicros c (.pageread page) (latchoutSteps c.pageBytes ++ [.answer .obuf]) k loc
        (pollEnd reads (pagereadHeadEnd c page s)) =
      (pagereadEnd c page reads s).respond ⟨.ok, s.dioAhead c.pageBytes⟩ := by
  obtain ⟨-, hg⟩ := Link.grants_split hg
  have hpre : passes c latchoutPre (pagereadHeadEnd c page s).ctlShadow = true := by
    simp [passes_latchout, signal_pagereadHeadEnd hc, hce]
  have hlink : (pollEnd reads (pagereadHeadEnd c page s)).env.link = s.env.link.spend (5 + 17 + 5 + reads) := by
    rw [Link.spend_add, ← pagereadHeadEnd_link c page]
    rfl
  have hlead : Leads c (latchoutSteps c.pageBytes) loc (pollEnd reads (pagereadHeadEnd c page s)) loc
      (pagereadEnd c page reads s) := latchoutSteps_leads hf hpre (hlink ▸ hg)
  rw [runMicros_leads hlead, runMicros_answer, response, pagereadEnd_obuf]

/-- A PAGEREAD with n busy-poll reads not ready and the next one ready, from its issue. -/
theorem stepsWith_pageread (hc : c.wellFormed = true) (hlimit : c.pollLimit = none) (hmacros : c.hasFlashMacros = true)
    {page : Word} {n : Nat} {rest : List Descriptor} (hseq : s.seq = .idle) (hf : s.fault = none)
    (hce : signal c s.ctlShadow .nce = false) (hre : signal c s.ctlShadow .nre = true) (hreset : s.env.resetIn = [])
    (hp : s.env.program = encode (.pageread page) :: rest)
    (hg : s.env.link.grants (pagereadCalls c (n + 1)) = true)
    (hr : (s.ctlAhead (n + 1)).map (ready c) = List.replicate n false ++ [true]) :
    stepsWith c (n + 1) s =
      .next ((pagereadEnd c page (n + 1) (s.issued rest)).respond ⟨.ok, s.dioAhead c.pageBytes⟩) := by
  obtain ⟨hhead, -⟩ := Link.grants_split hg
  obtain ⟨h1, h2⟩ := Link.grants_split hhead
  have hprog : microProgram c (.pageread page) =
      pagereadHead c page ++ .poll :: (latchoutSteps c.pageBytes ++ [.answer .obuf]) := by
    rw [microProgram, pagereadProgram, pagereadSteps_eq, List.append_assoc, List.cons_append]
  have hpolls : (pagereadHeadEnd c page (s.issued rest)).env.link.grants (n + 1) = true := by
    rwa [pagereadHeadEnd_link]
  rw [stepsWith_issue_ready hprog hmacros hlimit hseq hreset hp (pagereadHead_leads hc hf hce hre h1) hreset hpolls hr,
    runMicros_pagereadTail (s := s.issued rest) hc hf hce hg]
  rfl

end

/-- Settles O36: ready at once, all five parts lead on; else the wait comes between the fourth part's check and its ready read. -/
theorem pagereadCompletes : Obligations.PagereadCompletes := by
  intro p s hidle hf hce hre
  refine ⟨fun hg hr => ?_, fun n rest hreset hp hg hr => ?_⟩
  · exact (exec_idle _ hidle).trans (congrArg _ (perform_pageread standard_wellFormed hf hce hre hg hr))
  · exact (core_run_eq_stepsWith _ _).trans
      (stepsWith_pageread standard_wellFormed rfl rfl hidle hf hce hre hreset hp hg hr)

end Sys2Proof.Machine
end

section
/-! PROOFS. Family FO, ERASE (43_flash_operations.md section 3): its micro-steps before and after the busy-poll read, and the
statement. -/

namespace Sys2Proof.Machine

section
variable {c : Config} {s : State}

/-- The micro-steps of ERASE up to its busy-poll read. -/
def eraseHead (c : Config) (block : Word) : List Micro :=
  [.check [], .raise .nwp] ++ cmdlatchSteps cmdEraseSetup ++ addrlatchSteps (rowCycles (eraseAddress c block)) ++
    cmdlatchSteps cmdEraseConfirm ++ [.check (busypollPre c)]

/-- The micro-steps of ERASE after its busy-poll read, up to its answer. -/
def eraseTail : List Micro := cmdlatchSteps cmdReadStatus ++ latchoutSteps 1 ++ [.lower .nwp]

/-- The state ERASE comes to its busy-poll read in. -/
def eraseHeadEnd (c : Config) (block : Word) (s : State) : State :=
  cmdlatchEnd c cmdEraseConfirm
    (addrlatchEnd c (rowCycles (eraseAddress c block)) (cmdlatchEnd c cmdEraseSetup (drivePinEnd c .nwp true s)))

theorem eraseProgram_eq (c : Config) (block : Word) :
    eraseProgram c block = eraseHead c block ++ .poll :: (eraseTail ++ [.answer .erase]) := by
  simp [eraseProgram, eraseHead, eraseTail, busypollSteps]

theorem signal_eraseHeadEnd (hc : c.wellFormed = true) (block : Word) (s : State) (T : CtlSignal) :
    signal c (eraseHeadEnd c block s).ctlShadow T =
      if T = .cle then false else if T = .nwe then true else if T = .ale then false
      else if T = .nwp then true else signal c s.ctlShadow T := by
  have hb : rowCycles (eraseAddress c block) ≠ [] := List.cons_ne_nil _ _
  cases T <;>
    simp [eraseHeadEnd, drivePinEnd, cmdlatchEnd, addrlatchEnd, signal_cmdlatchShadow hc,
      signal_addrlatchShadow_of_ne_nil hc _ hb, signal_setSignal hc]

theorem eraseHead_leads (hc : c.wellFormed = true) {block : Word} {loc : Locals} (hf : s.fault = none)
    (hce : signal c s.ctlShadow .nce = false) (hre : signal c s.ctlShadow .nre = true)
    (hg : s.env.link.grants (1 + 5 + 11 + 5) = true) :
    Leads c (eraseHead c block) loc s loc (eraseHeadEnd c block s) := by
  obtain ⟨hg, h4⟩ := Link.grants_split hg
  obtain ⟨hg, h3⟩ := Link.grants_split hg
  obtain ⟨h1, h2⟩ := Link.grants_split hg
  simp only [Link.spend_add] at h3 h4
  have hb : rowCycles (eraseAddress c block) ≠ [] := List.cons_ne_nil _ _
  have hraise : Leads c [.check [], .raise .nwp] loc s loc (drivePinEnd c .nwp true s) :=
    ⟨_, _, check_passes hf rfl, _, _, raise_goes (Link.grants_succ h1).1, rfl, rfl⟩
  refine Leads.append (Leads.append (Leads.append (Leads.append hraise
    (cmdlatchSteps_leads hc hf (passes_cmdlatch.2 ?_) h2))
    (addrlatchSteps_leads hc hf (passes_addrlatch.2 ?_) h3))
    (cmdlatchSteps_leads hc hf (passes_cmdlatch.2 ?_) h4))
    ⟨_, _, check_passes hf (passes_busypoll.2 fun _ => ?_), rfl, rfl⟩
  · simp [drivePinEnd, signal_setSignal hc, hce, hre]
  · simp [drivePinEnd, cmdlatchEnd, signal_cmdlatchShadow hc, signal_setSignal hc, hce, hre]
  · simp [drivePinEnd, cmdlatchEnd, addrlatchEnd, signal_cmdlatchShadow hc, signal_addrlatchShadow_of_ne_nil hc _ hb,
      signal_setSignal hc, hce, hre]
  · exact (signal_eraseHeadEnd hc block s .nce).trans hce

theorem eraseHeadEnd_link (c : Config) (block : Word) (s : State) :
    (eraseHeadEnd c block s).env.link = s.env.link.spend (1 + 5 + 11 + 5) := by
  simp only [Link.spend_add]
  rfl

/-- The calls of ERASE up to its busy wait's end, and after it. -/
theorem grants_eraseCalls {reads : Nat} {l : Link} (h : l.grants (eraseCalls reads) = true) :
    l.grants (1 + 5 + 11 + 5 + reads) = true ∧ (l.spend (1 + 5 + 11 + 5 + reads)).grants (5 + 5 + 1) = true :=
  Link.grants_split h

theorem eraseTail_leads (hc : c.wellFormed = true) {block : Word} {reads : Nat} {loc : Locals} (hf : s.fault = none)
    (hce : signal c s.ctlShadow .nce = false) (hre : signal c s.ctlShadow .nre = true)
    (hg : s.env.link.grants (eraseCalls reads) = true) :
    Leads c eraseTail loc (pollEnd reads (eraseHeadEnd c block s)) loc (eraseEnd c block reads s) := by
  obtain ⟨-, hg⟩ := grants_eraseCalls hg
  have hlink : (pollEnd reads (eraseHeadEnd c block s)).env.link = s.env.link.spend (1 + 5 + 11 + 5 + reads) := by
    rw [Link.spend_add _ reads, ← eraseHeadEnd_link c block]
    rfl
  rw [← hlink] at hg
  obtain ⟨hg, h3⟩ := Link.grants_split hg
  obtain ⟨h1, h2⟩ := Link.grants_split hg
  rw [Link.spend_add] at h3
  have hcmd : passes c cmdlatchPre (pollEnd reads (eraseHeadEnd c block s)).ctlShadow = true := by
    rw [passes_cmdlatch]
    simp [pollEnd, State.spend, signal_eraseHeadEnd hc, hce, hre]
  have hout : passes c latchoutPre
      (cmdlatchEnd c cmdReadStatus (pollEnd reads (eraseHeadEnd c block s))).ctlShadow = true := by
    rw [passes_latchout]
    simp [cmdlatchEnd, pollEnd, State.spend, signal_cmdlatchShadow hc, signal_eraseHeadEnd hc, hce]
  exact Leads.append (Leads.append (cmdlatchSteps_leads hc hf hcmd h1) (latchoutSteps_leads hf hout h2))
    ⟨_, _, lower_goes (Link.grants_succ h3).1, rfl, rfl⟩

@[simp] theorem eraseEnd_obuf (c : Config) (block : Word) (reads : Nat) (s : State) :
    (eraseEnd c block reads s).obuf = s.dioAhead 1 := by
  simp [eraseEnd, drivePinEnd, latchoutEnd, pollEnd, cmdlatchEnd, addrlatchEnd, State.spend, State.dioAhead, Channel.skip]

/-- ERASE after its busy wait (R218, R222). -/
theorem runMicros_eraseTail (hc : c.wellFormed = true) {block : Word} {reads k : Nat} {loc : Locals} (hf : s.fault = none)
    (hce : signal c s.ctlShadow .nce = false) (hre : signal c s.ctlShadow .nre = true)
    (hg : s.env.link.grants (eraseCalls reads) = true) :
    runMicros c (.erase block) (eraseTail ++ [.answer .erase]) k loc (pollEnd reads (eraseHeadEnd c block s)) =
      (eraseEnd c block reads s).respond ⟨eraseStatus (s.dioAhead 1), s.dioAhead 1⟩ := by
  rw [runMicros_leads (eraseTail_leads hc hf hce hre hg), runMicros_answer, response, eraseEnd_obuf]

theorem perform_erase_ready (hc : c.wellFormed = true) {block : Word} (hf : s.fault = none)
    (hce : signal c s.ctlShadow .nce = false) (hre : signal c s.ctlShadow .nre = true)
    (hg : s.env.link.grants (eraseCalls 1) = true) (hr : (s.ctlAhead 1).map (ready c) = [true]) :
    perform c (.erase block) s =
      (eraseEnd c block 1 s).respond ⟨eraseStatus (s.dioAhead 1), s.dioAhead 1⟩ :=
  perform_leads (a := .erase) rfl (eraseSteps_leads hc hf hce hre hg hr rfl)

/-- An ERASE with n busy-poll reads not ready and the next one ready, from its issue. -/
theorem stepsWith_erase (hc : c.wellFormed = true) (hlimit : c.pollLimit = none) (hmacros : c.hasFlashMacros = true)
    {block : Word} {n : Nat} {rest : List Descriptor} (hseq : s.seq = .idle) (hf : s.fault = none)
    (hce : signal c s.ctlShadow .nce = false) (hre : signal c s.ctlShadow .nre = true) (hreset : s.env.resetIn = [])
    (hp : s.env.program = encode (.erase block) :: rest) (hg : s.env.link.grants (eraseCalls (n + 1)) = true)
    (hr : (s.ctlAhead (n + 1)).map (ready c) = List.replicate n false ++ [true]) :
    stepsWith c (n + 1) s =
      .next ((eraseEnd c block (n + 1) (s.issued rest)).respond ⟨eraseStatus (s.dioAhead 1), s.dioAhead 1⟩) := by
  obtain ⟨hreads, -⟩ := grants_eraseCalls hg
  obtain ⟨h1, h2⟩ := Link.grants_split hreads
  have hpolls : (eraseHeadEnd c block (s.issued rest)).env.link.grants (n + 1) = true := by
    rwa [eraseHeadEnd_link]
  rw [stepsWith_issue_ready (i := .erase block) (eraseProgram_eq c block) hmacros hlimit hseq hreset hp
    (eraseHead_leads hc hf hce hre h1) hreset hpolls hr, runMicros_eraseTail (s := s.issued rest) hc hf hce hre hg]
  rfl

theorem eraseStatus_singleton (v : Byte) : eraseStatus [v] = if v.getLsbD 0 then .eraseFail else .ok := by
  simp [eraseStatus]

/-- The last micro-step of ERASE lowers nWP (R218, R222). -/
theorem eraseEnd_nwp (c : Config) (block : Word) (reads : Nat) (s : State) :
    signal c (eraseEnd c block reads s).ctlShadow .nwp = false :=
  signal_setSignal_same c _ .nwp false

end

/-- Settles O40: its parts lead on, the wait coming between the check of the fourth and its ready read; the status is decoded from
the one byte read, and nWP is lowered last. -/
theorem eraseCompletes : Obligations.EraseCompletes := by
  intro b s hidle hf hce hre
  refine ⟨fun hg hr => ⟨_, rfl, ?_⟩, fun n rest hreset hp hg hr => ⟨_, rfl, ?_⟩,
    fun reads => ⟨eraseEnd_nwp _ b reads s, rfl⟩⟩ <;> rw [← eraseStatus_singleton]
  · exact (exec_idle _ hidle).trans (congrArg _ (perform_erase_ready standard_wellFormed hf hce hre hg hr))
  · exact (core_run_eq_stepsWith _ _).trans
      (stepsWith_erase standard_wellFormed rfl rfl hidle hf hce hre hreset hp hg hr)

end Sys2Proof.Machine
end

section
/-! PROOFS. IDENTIFY and its expansion (43_flash_operations.md sections 1 and 5). A list of micro-steps without reads of the control
bus, samples and answers either leads on or ends its operation by an error (`leads_or_halts`), and does so whatever was answered
before; so the parts of IDENTIFY do in a row what they do one after the other. -/

namespace Sys2Proof.Machine

/-! ### Parts that lead on or end by an error -/

/-- One of the micro-steps ends the operation by an error, with this status, those before it having led on. -/
def Halts (c : Config) : List Micro → Locals → State → Status → Locals → State → Prop
  | [], _, _, _, _, _ => False
  | m :: ms, loc, s, status, loc', t =>
    microEffect c loc s m = .stop status loc' t ∨ ∃ l u, microEffect c loc s m = .go l u ∧ Halts c ms l u status loc' t

/-- A micro-step that is not made again, keeps the variables and does not answer. -/
def Micro.straight : Micro → Bool
  | .sample _ => false
  | .poll => false
  | .openStream => false
  | .answer _ => false
  | _ => true

section
variable {c : Config} {ms ns : List Micro} {loc loc' l : Locals} {s s' t : State} {status : Status}

theorem Halts.append_right (h : Halts c ms loc s status loc' t) (ns : List Micro) :
    Halts c (ms ++ ns) loc s status loc' t := by
  induction ms generalizing loc s with
  | nil => exact h.elim
  | cons m ms ih => exact h.imp_right fun ⟨l, u, hm, hu⟩ => ⟨l, u, hm, ih hu⟩

theorem Leads.halts_append (h : Leads c ms loc s l s') (h' : Halts c ns l s' status loc' t) :
    Halts c (ms ++ ns) loc s status loc' t := by
  induction ms generalizing loc s with
  | nil =>
    obtain ⟨rfl, rfl⟩ := h
    exact h'
  | cons m ms ih =>
    obtain ⟨k, u, hm, hu⟩ := h
    exact .inr ⟨k, u, hm, ih hu⟩

theorem Halts.respond (h : Halts c ms loc s status loc' t) (r : Response) :
    Halts c ms loc (s.respond r) status loc' (t.respond r) := by
  induction ms generalizing loc s with
  | nil => exact h.elim
  | cons m ms ih =>
    have hm : microEffect c loc (s.respond r) m = (microEffect c loc s m).map (State.respond · r) :=
      microEffect_mapAnswers (fun _ => .idle) (fun _ => r) (· ++ [r]) c loc s m
    obtain he | ⟨l, u, he, hu⟩ := h
    · exact .inl (by rw [hm, he]; rfl)
    · exact .inr ⟨l, u.respond r, by rw [hm, he]; rfl, ih hu⟩

theorem runMicros_halts {op : Instr} (h : Halts c ms loc s status loc' t) (k : Nat) :
    runMicros c op ms k loc s = t.respond ⟨status, errorData op loc' t⟩ := by
  induction ms generalizing k loc s with
  | nil => exact h.elim
  | cons m ms ih =>
    obtain he | ⟨l, u, he, hu⟩ := h
    · rw [runMicros_stop he]
    · rw [runMicros_go he, ih hu]

/-- The two ways a straight micro-step can go. -/
theorem microEffect_straight {m : Micro} (hm : m.straight = true) (c : Config) (loc : Locals) (s : State) :
    (∃ t, microEffect c loc s m = .go loc t) ∨ ∃ status t, status ≠ .ok ∧ microEffect c loc s m = .stop status loc t := by
  have hcall {α : Type} (r : CallResult α) (f : State → State) :
      (∃ t, afterCall loc r (fun _ u => .go loc (f u)) = .go loc t) ∨
        ∃ status t, status ≠ .ok ∧ afterCall loc r (fun _ u => .go loc (f u)) = .stop status loc t := by
    cases r with
    | done a u => exact .inl ⟨f u, rfl⟩
    | failed u => exact .inr ⟨.transport, u, Status.noConfusion, rfl⟩
  cases m with
  | check pre =>
    rw [microEffect]
    split
    · exact .inr ⟨_, _, Status.noConfusion, rfl⟩
    · split
      · exact .inl ⟨_, rfl⟩
      · exact .inr ⟨_, _, Status.noConfusion, rfl⟩
  | assign => exact .inl ⟨_, rfl⟩
  | delay => exact .inl ⟨_, rfl⟩
  | deliver => exact .inl ⟨_, rfl⟩
  | flush bus => exact hcall _ id
  | config d => exact hcall _ id
  | raise S => exact hcall _ id
  | lower S => exact hcall _ id
  | drive b => exact hcall _ id
  | turnIn => exact hcall _ id
  | fetchByte =>
    rw [microEffect]
    cases tRead .io s with
    | done b u => exact .inl ⟨_, rfl⟩
    | failed u => exact .inr ⟨.transport, u, Status.noConfusion, rfl⟩
  | _ => cases hm

theorem leads_or_halts (hms : ms.all Micro.straight = true) (c : Config) (loc : Locals) (s : State) :
    (∃ t, Leads c ms loc s loc t) ∨ ∃ status t, status ≠ .ok ∧ Halts c ms loc s status loc t := by
  induction ms generalizing s with
  | nil => exact .inl ⟨s, rfl, rfl⟩
  | cons m ms ih =>
    rw [List.all_cons, Bool.and_eq_true] at hms
    obtain ⟨hm, hms⟩ := hms
    obtain ⟨u, he⟩ | ⟨status, u, hstatus, he⟩ := microEffect_straight hm c loc s
    · obtain ⟨t, ht⟩ | ⟨status, t, hstatus, ht⟩ := ih hms u
      · exact .inl ⟨t, loc, u, he, ht⟩
      · exact .inr ⟨status, t, hstatus, .inr ⟨loc, u, he, ht⟩⟩
    · exact .inr ⟨status, u, hstatus, .inl he⟩

theorem Leads.sameAnswers (h : Leads c ms loc s loc' s') : SameAnswers s s' := by
  induction ms generalizing loc s with
  | nil =>
    obtain ⟨rfl, rfl⟩ := h
    exact ⟨rfl, rfl, rfl⟩
  | cons m ms ih =>
    obtain ⟨l, u, hm, hu⟩ := h
    have hfirst := microEffect_sameAnswers c loc s m
    rw [hm] at hfirst
    have hrest := ih hu
    exact ⟨hrest.seq.trans hfirst.seq, hrest.resp.trans hfirst.resp, hrest.responses.trans hfirst.responses⟩

theorem Halts.sameAnswers (h : Halts c ms loc s status loc' t) : SameAnswers s t := by
  induction ms generalizing loc s with
  | nil => exact h.elim
  | cons m ms ih =>
    have hfirst := microEffect_sameAnswers c loc s m
    obtain he | ⟨l, u, he, hu⟩ := h <;> rw [he] at hfirst
    · exact hfirst
    · have hrest := ih hu
      exact ⟨hrest.seq.trans hfirst.seq, hrest.resp.trans hfirst.resp, hrest.responses.trans hfirst.responses⟩

end

/-! ### The parts of IDENTIFY (R210) -/

theorem addressLoop_straight (bytes : List Byte) : (bytes.flatMap addressSteps).all Micro.straight = true :=
  addressLoop_all (fun _ => rfl) rfl bytes

theorem cmdlatchSteps_straight (cmd : Byte) : (cmdlatchSteps cmd).all Micro.straight = true := rfl

theorem addrlatchSteps_straight (bytes : List Byte) : (addrlatchSteps bytes).all Micro.straight = true :=
  addrlatchSteps_all (fun _ => rfl) rfl bytes

theorem latchoutSteps_straight (n : Nat) : (latchoutSteps n).all Micro.straight = true := latchoutSteps_all rfl n

section
variable {c : Config} {s t : State} {ms ns : List Micro} {i : Instr} {a : Answer} {status : Status}

/-- An operation one of whose micro-steps ends it by an error. -/
theorem perform_halts (hprog : microProgram c i = ms ++ ns) (hi : i ≠ .dump) {loc : Locals}
    (h : Halts c ms Locals.start s status loc t) : perform c i s = t.respond ⟨status, []⟩ := by
  rw [perform, hprog, runMicros_halts (h.append_right ns), errorData_of_ne hi]

/-- Answered on the way, a state differs from itself answered once in its responses alone. -/
theorem sameButResponses_respond (s : State) (r u v : Response) :
    SameButResponses ((s.respond r).respond u) (s.respond v) := rfl

theorem sameButResponses_respond_respond (s : State) (q r u v : Response) :
    SameButResponses (((s.respond q).respond r).respond u) (s.respond v) := rfl

theorem microProgram_identify (c : Config) : microProgram c .identify =
    cmdlatchSteps cmdReadId ++ (addrlatchSteps [idAddress] ++ (latchoutSteps idBytes ++ [.answer .identify])) := by
  rw [microProgram, identifyProgram, List.append_assoc, List.append_assoc]

end

/-- Settles O35: each part is straight, so it leads on or ends IDENTIFY; and a part run on its own starts from the same state but for
the responses, which it does not see. -/
theorem identifyIsItsExpansion : Obligations.IdentifyIsItsExpansion := by
  intro s hidle
  refine ⟨_, exec_idle _ hidle, ?_⟩
  rw [exec_idle .identify hidle]
  obtain ⟨u1, h1⟩ | ⟨status, u1, hstatus, h1⟩ :=
    leads_or_halts (cmdlatchSteps_straight cmdReadId) Config.standard Locals.start s
  case inr =>
    rw [show perform Config.standard (.cmdlatch 0x90) s = u1.respond ⟨status, []⟩ from perform_halts rfl (by simp) h1,
      perform_halts (microProgram_identify _) (by simp) h1]
    exact ⟨fun _ => rfl, fun hok => absurd hok hstatus⟩
  rw [show perform Config.standard (.cmdlatch 0x90) s = u1.respond ⟨.ok, []⟩ from perform_leads (a := .done) rfl h1]
  refine ⟨fun hne => absurd rfl hne, fun _ => ⟨_, exec_idle _ rfl, ?_⟩⟩
  obtain ⟨u2, h2⟩ | ⟨status, u2, hstatus, h2⟩ :=
    leads_or_halts (addrlatchSteps_straight [idAddress]) Config.standard Locals.start u1
  case inr =>
    rw [show perform Config.standard (.addrlatch [0x00]) (u1.respond ⟨.ok, []⟩) =
        (u2.respond ⟨.ok, []⟩).respond ⟨status, []⟩ from perform_halts rfl (by simp) (h2.respond _),
      perform_halts ((microProgram_identify _).trans (List.append_assoc _ _ _).symm) (by simp) (h1.halts_append h2)]
    exact ⟨fun _ => ⟨_, rfl, sameButResponses_respond u2 _ _ _, rfl⟩, fun hok => absurd hok hstatus⟩
  rw [show perform Config.standard (.addrlatch [0x00]) (u1.respond ⟨.ok, []⟩) =
    (u2.respond ⟨.ok, []⟩).respond ⟨.ok, []⟩ from perform_leads (a := .done) rfl (h2.respond _)]
  refine ⟨fun hne => absurd rfl hne, fun _ => ⟨_, _, exec_idle _ rfl, rfl, ?_⟩⟩
  have hresponses : u2.env.responses = s.env.responses := h2.sameAnswers.responses.trans h1.sameAnswers.responses
  obtain ⟨u3, h3⟩ | ⟨status, u3, hstatus, h3⟩ :=
    leads_or_halts (latchoutSteps_straight idBytes) Config.standard Locals.start u2
  case inr =>
    rw [show perform Config.standard (.latchout 5) ((u2.respond ⟨.ok, []⟩).respond ⟨.ok, []⟩) =
        ((u3.respond ⟨.ok, []⟩).respond ⟨.ok, []⟩).respond ⟨status, []⟩ from
          perform_halts rfl (by simp) ((h3.respond _).respond _),
      perform_halts (ns := [.answer .identify]) rfl (by simp) ((h1.append h2).halts_append h3)]
    exact ⟨sameButResponses_respond_respond u3 _ _ _ _,
      by rw [State.respond_env, h3.sameAnswers.responses, hresponses]; rfl, (if_neg hstatus).symm⟩
  rw [show perform Config.standard (.latchout 5) ((u2.respond ⟨.ok, []⟩).respond ⟨.ok, []⟩) =
      ((u3.respond ⟨.ok, []⟩).respond ⟨.ok, []⟩).respond ⟨.ok, u3.obuf⟩ from
        perform_leads (a := .obuf) rfl ((h3.respond _).respond _),
    perform_leads (a := .identify) rfl ((h1.append h2).append h3)]
  exact ⟨sameButResponses_respond_respond u3 _ _ _ _,
    by rw [State.respond_env, h3.sameAnswers.responses, hresponses]; rfl, rfl⟩

end Sys2Proof.Machine
end

section
/-! PROOFS. Pseudo-operations (30_encoding.md section 7): SETPINs put the shadow where the helper procedure puts it, and the FLUSH is
the helper's; what the host was answered on the way is nothing to it. -/

namespace Sys2Proof.Machine

section
variable {c : Config} {s t : State}

/-! ### States alike but for the responses -/

theorem sameButResponses_iff : SameButResponses s t ↔ ∃ r rs, t = s.mapAnswers id (fun _ => r) (fun _ => rs) :=
  ⟨fun h => ⟨t.resp, t.env.responses, h.symm⟩, fun ⟨_, _, h⟩ => by rw [h]; rfl⟩

theorem SameButResponses.refl (s : State) : SameButResponses s s := rfl

theorem SameButResponses.respond (h : SameButResponses s t) (r : Response) (hidle : s.seq = .idle) :
    SameButResponses s (t.respond r) := by
  obtain ⟨q, rs, rfl⟩ := sameButResponses_iff.1 h
  exact sameButResponses_iff.2 ⟨r, rs ++ [r], by rw [State.respond, ← hidle]; rfl⟩

theorem SameButResponses.respond_left (h : SameButResponses s t) (r : Response) (hidle : s.seq = .idle) :
    SameButResponses (s.respond r) t := by
  obtain ⟨q, rs, rfl⟩ := sameButResponses_iff.1 h
  exact sameButResponses_iff.2 ⟨q, rs, by rw [State.respond, ← hidle]; rfl⟩

theorem SameButResponses.seq_eq (h : SameButResponses s t) : t.seq = s.seq := by
  obtain ⟨q, rs, rfl⟩ := sameButResponses_iff.1 h
  rfl

theorem SameButResponses.fault_eq (h : SameButResponses s t) : t.fault = s.fault := by
  obtain ⟨q, rs, rfl⟩ := sameButResponses_iff.1 h
  rfl

theorem SameButResponses.assignPin (h : SameButResponses s t) (bus : Bus) (pin : PinPos) (on : Bool) :
    SameButResponses (assignPin bus pin on s) (assignPin bus pin on t) := by
  obtain ⟨q, rs, rfl⟩ := sameButResponses_iff.1 h
  cases bus <;> rfl

/-- A transport primitive leaves this state, succeeding or failing. -/
def CallResult.Leaves {α : Type} (u : State) : CallResult α → Prop
  | .done _ v => v = u
  | .failed v => v = u

theorem CallResult.Leaves.eq_or {u : State} {r : CallResult Unit} (h : r.Leaves u) : r = .done () u ∨ r = .failed u := by
  cases r with
  | done a v => exact .inl (congrArg _ h)
  | failed v => exact .inr (congrArg _ h)

/-! ### Lists of operations -/

theorem execAll_cons {i : Instr} {is : List Instr} {u : State} (h : exec i s = .next u) :
    execAll (i :: is) s = execAll is u := by
  rw [execAll, h]

theorem execAll_append {is js : List Instr} {u : State} (h : execAll is s = .next u) :
    execAll (is ++ js) s = execAll js u := by
  induction is generalizing s with
  | nil =>
    cases h
    rfl
  | cons i is ih =>
    rw [execAll] at h
    cases hi : exec i s with
    | next v =>
      rw [hi] at h
      rw [List.cons_append, execAll_cons hi, ih h]
    | fault r =>
      rw [hi] at h
      cases h
    | refused r =>
      rw [hi] at h
      cases h

/-- SETPINs before other operations leave what the assignments of their bits leave (R141). -/
theorem execAll_setpins (bus : Bus) (bits : List (PinPos × Bool)) (is : List Instr) (h : SameButResponses s t)
    (hidle : s.seq = .idle) :
    ∃ v, execAll (bits.map (fun p => .setpin bus p.1 p.2) ++ is) t = execAll is v ∧
      SameButResponses (bits.foldl (fun u p => assignPin bus p.1 p.2 u) s) v := by
  induction bits generalizing s t with
  | nil => exact ⟨t, rfl, h⟩
  | cons p ps ih =>
    rw [List.map_cons, List.cons_append, execAll_cons (exec_idle _ (h.seq_eq.trans hidle)), perform_setpin]
    have hassign : (assignPin bus p.1 p.2 s).seq = .idle := (State.setShadow_seq ..).trans hidle
    exact ih ((h.assignPin bus p.1 p.2).respond _ hassign) hassign

/-- A run does not see what was answered before it. -/
theorem runMicros_sameButResponses (h : SameButResponses s t) (op : Instr) (ms : List Micro) (k : Nat) (loc : Locals) :
    SameButResponses (runMicros c op ms k loc s) (runMicros c op ms k loc t) := by
  obtain ⟨q, rs, rfl⟩ := sameButResponses_iff.1 h
  clear h
  induction ms generalizing k loc s with
  | nil => rfl
  | cons m ms ih =>
    rw [runMicros, runMicros, microEffect_mapAnswers]
    cases microEffect c loc s m with
    | go l u => exact ih (k + 1) l
    | again l u => rfl
    | finish r u => rfl
    | stop status l u => rfl

theorem SameButResponses.trans {u : State} (h : SameButResponses s t) (h' : SameButResponses t u) :
    SameButResponses s u := by
  obtain ⟨q, rs, rfl⟩ := sameButResponses_iff.1 h
  obtain ⟨q', rs', rfl⟩ := sameButResponses_iff.1 h'
  rfl

/-- FLUSH is the flush of its bus and an answer (R23, R142). -/
theorem perform_flush_leaves (bus : Bus) (hf : s.fault = none) :
    ∃ u r, (flushBus bus s).Leaves u ∧ perform c (.flush bus) s = u.respond r ∧ u.seq = s.seq := by
  cases h : s.env.link.ask.1 with
  | true =>
    rw [flushBus, tWrite_granted h, perform_flush_granted hf h]
    exact ⟨_, _, rfl, rfl, State.setLatch_seq ..⟩
  | false =>
    rw [flushBus, tWrite_failed h, perform_flush_failed hf h]
    exact ⟨_, _, rfl, rfl, State.setLatch_seq ..⟩

/-- FLUSH as the last of a list of operations does what the helper's flush does. -/
theorem execAll_flush (bus : Bus) (h : SameButResponses s t) (hidle : s.seq = .idle) (hf : s.fault = none) :
    ∃ v u, execAll [.flush bus] t = .next v ∧ (flushBus bus s).Leaves u ∧ SameButResponses u v := by
  obtain ⟨u, r, hu, hflush, hseq⟩ := perform_flush_leaves (c := Config.standard) bus hf
  have hv : SameButResponses (u.respond r) (perform Config.standard (.flush bus) t) :=
    hflush ▸ runMicros_sameButResponses h _ _ _ _
  have hrespond : SameButResponses u (u.respond r) := (SameButResponses.refl u).respond r (hseq.trans hidle)
  exact ⟨_, u, execAll_cons (exec_idle _ (h.seq_eq.trans hidle)), hu, hrespond.trans hv⟩

/-- SETPIN and FLUSH of a control signal are the helper that raises or lowers it (R23, R126). -/
theorem execAll_drivePin (S : CtlSignal) (level : Bool) (h : SameButResponses s t) (hidle : s.seq = .idle)
    (hf : s.fault = none) :
    ∃ v u, execAll [.setpin .ctl (Config.standard.pin S) level, .flush .ctl] t = .next v ∧
      (drivePin Config.standard S level s).Leaves u ∧ SameButResponses u v := by
  obtain ⟨v, hv, hsame⟩ := execAll_setpins .ctl [(Config.standard.pin S, level)] [.flush .ctl] h hidle
  obtain ⟨w, u, hw, hu, huw⟩ := execAll_flush .ctl hsame hidle hf
  exact ⟨w, u, hv.trans hw, hu, huw⟩

/-- The eight bits of a byte, with their places. -/
def byteBits (b : Byte) : List (PinPos × Bool) :=
  [(0, b.getLsbD 0), (1, b.getLsbD 1), (2, b.getLsbD 2), (3, b.getLsbD 3), (4, b.getLsbD 4), (5, b.getLsbD 5),
    (6, b.getLsbD 6), (7, b.getLsbD 7)]

/-- Set one after the other in any byte, they make the byte. -/
theorem foldl_setBit_byteBits (v b : Byte) : (byteBits b).foldl (fun u p => setBit u p.1 p.2) v = b := by
  refine byte_ext fun j hj => ?_
  simp only [byteBits, List.foldl_cons, List.foldl_nil, setBit_getLsbD _ _ _ _ hj]
  interval_cases j <;> rfl

theorem foldl_assignPin_io (bits : List (PinPos × Bool)) (s : State) :
    bits.foldl (fun u p => assignPin .io p.1 p.2 u) s =
      s.setShadow .io (bits.foldl (fun v p => setBit v p.1 p.2) s.ioShadow) := by
  induction bits generalizing s with
  | nil => rfl
  | cons p ps ih => exact ih _

/-- Eight SETPINs and a FLUSH are the helper that drives a byte (R23, R126). -/
theorem execAll_driveIo (b : Byte) (h : SameButResponses s t) (hidle : s.seq = .idle) (hf : s.fault = none) :
    ∃ v u, execAll (expand Config.standard (.drive b)) t = .next v ∧ (driveIo b s).Leaves u ∧ SameButResponses u v := by
  obtain ⟨v, hv, hsame⟩ := execAll_setpins .io (byteBits b) [.flush .io] h hidle
  rw [foldl_assignPin_io, foldl_setBit_byteBits] at hsame
  obtain ⟨w, u, hw, hu, huw⟩ := execAll_flush .io hsame hidle hf
  exact ⟨w, u, hv.trans hw, hu, huw⟩

end

/-- Settles O54: SETPINs and the helper put the same shadow before the same flush. -/
theorem pseudoOperationsAreHelpers : Obligations.PseudoOperationsAreHelpers := by
  intro s hidle hf
  have hs := SameButResponses.refl s
  refine ⟨fun S => ?_, fun S => ?_, fun b => ?_⟩
  · obtain ⟨v, u, hv, hu, huv⟩ := execAll_drivePin S true hs hidle hf
    exact ⟨v, hv, u, hu.eq_or, huv⟩
  · obtain ⟨v, u, hv, hu, huv⟩ := execAll_drivePin S false hs hidle hf
    exact ⟨v, hv, u, hu.eq_or, huv⟩
  · obtain ⟨v, u, hv, hu, huv⟩ := execAll_driveIo b hs hidle hf
    exact ⟨v, hv, u, hu.eq_or, huv⟩

/-! ### A command latch made of bus primitives -/

section
variable {s t : State}

theorem execAll_drivePin_granted (S : CtlSignal) (level : Bool) (h : SameButResponses s t) (hidle : s.seq = .idle)
    (hf : s.fault = none) (hg : s.env.link.ask.1 = true) :
    ∃ v, execAll [.setpin .ctl (Config.standard.pin S) level, .flush .ctl] t = .next v ∧
      SameButResponses (drivePinEnd Config.standard S level s) v := by
  obtain ⟨v, u, hv, hu, huv⟩ := execAll_drivePin S level h hidle hf
  rw [drivePin_granted hg] at hu
  exact ⟨v, hv, (show _ = u from hu) ▸ huv⟩

theorem execAll_driveIo_granted (b : Byte) (h : SameButResponses s t) (hidle : s.seq = .idle) (hf : s.fault = none)
    (hg : s.env.link.ask.1 = true) :
    ∃ v, execAll (expand Config.standard (.drive b)) t = .next v ∧
      SameButResponses { s.spend 1 0 0 with ioShadow := b, ioLatch := some b, hist := s.hist ++ [.wrIo b] } v := by
  obtain ⟨v, u, hv, hu, huv⟩ := execAll_driveIo b h hidle hf
  rw [driveIo_granted hg] at hu
  exact ⟨v, hv, (show _ = u from hu) ▸ huv⟩

end

theorem Leads.unique {c : Config} {ms : List Micro} {loc l l' : Locals} {s t t' : State} (h : Leads c ms loc s l t)
    (h' : Leads c ms loc s l' t') : t = t' := by
  induction ms generalizing loc s with
  | nil => exact h.2.trans h'.2.symm
  | cons m ms ih =>
    obtain ⟨k, u, hm, hu⟩ := h
    obtain ⟨k', u', hm', hu'⟩ := h'
    obtain ⟨rfl, rfl⟩ := Effect.go.inj (hm.symm.trans hm')
    exact ih hu hu'

/-- The four pin moves and the byte of a command latch, one after the other, come to its end state (R163). -/
theorem cmdlatchEnd_eq {c : Config} (hc : c.wellFormed = true) {cmd : Byte} {s t : State}
    (hf : s.fault = none) (hp : passes c cmdlatchPre s.ctlShadow = true) (hg : s.env.link.grants 5 = true)
    (h : Leads c [.raise .cle, .lower .nwe, .drive cmd, .raise .nwe, .lower .cle] Locals.start s Locals.start t) :
    t = cmdlatchEnd c cmd s := by
  have hsteps : Leads c (cmdlatchSteps cmd) Locals.start s Locals.start t := ⟨_, _, check_passes hf hp, h⟩
  exact hsteps.unique (cmdlatchSteps_leads hc hf hp hg)

/-- Settles O55: each pseudo-operation is its helper, and the helpers are the micro-steps of CMDLATCH after its check. -/
theorem cmdlatchFromPrimitives : Obligations.CmdlatchFromPrimitives := by
  intro cmd s hidle hf hce hre hg
  have hp := passes_cmdlatch.2 ⟨hce, hre⟩
  obtain ⟨g1, h⟩ := Link.grants_succ hg
  obtain ⟨g2, h⟩ := Link.grants_succ h
  obtain ⟨g3, h⟩ := Link.grants_succ h
  obtain ⟨g4, h⟩ := Link.grants_succ h
  obtain ⟨g5, -⟩ := Link.grants_succ h
  obtain ⟨t1, h1, e1⟩ := execAll_drivePin_granted .cle true (SameButResponses.refl s) hidle hf g1
  obtain ⟨t2, h2, e2⟩ := execAll_drivePin_granted .nwe false e1 hidle hf g2
  obtain ⟨t3, h3, e3⟩ := execAll_driveIo_granted cmd e2 hidle hf g3
  obtain ⟨t4, h4, e4⟩ := execAll_drivePin_granted .nwe true e3 hidle hf g4
  obtain ⟨t5, h5, e5⟩ := execAll_drivePin_granted .cle false e4 hidle hf g5
  rw [cmdlatchEnd_eq standard_wellFormed hf hp hg
    ⟨_, _, raise_goes g1, _, _, lower_goes g2, _, _, drive_goes g3, _, _, raise_goes g4, _, _, lower_goes g5, rfl, rfl⟩]
    at e5
  refine ⟨t5, _, (exec_idle _ hidle).trans (congrArg _ (perform_cmdlatch standard_wellFormed hf hp hg)), ?_, ?_⟩
  · exact (execAll_append h1).trans ((execAll_append h2).trans ((execAll_append h3).trans ((execAll_append h4).trans h5)))
  · exact e5.respond_left _ hidle

/-! ### The boot sequence (70_reset_and_hazards.md section 2) -/

theorem LaunchReady.sameButResponses {c : Config} {s t : State} (hs : LaunchReady c s) (h : SameButResponses s t) :
    LaunchReady c t := by
  obtain ⟨q, rs, rfl⟩ := sameButResponses_iff.1 h
  exact hs

/-- The state the helper procedures of INIT leave from reset: 0x18 in the control shadow, and written (R284, R285). -/
def booted (e : Env) : State :=
  { State.reset with
    ctlShadow := 0x18, ctlLatch := some 0x18, hist := [.wrCtl 0x18], env := { e with link := e.link.ask.2 } }

theorem signal_boot (S : CtlSignal) : signal Config.standard 0x18 S = decide (S = .nwe ∨ S = .nre) := by
  cases S <;> decide

theorem booted_launchReady (e : Env) : LaunchReady Config.standard (booted e) :=
  ⟨rfl, rfl, rfl, signal_boot .nce, signal_boot .nre, signal_boot .nwe, signal_boot .cle, signal_boot .ale, rfl⟩

/-- INIT's SETPINs, in the order of its expansion. -/
def bootPins : List (PinPos × Bool) := [(Config.standard.pin .nwe, true), (Config.standard.pin .nre, true)]

theorem foldl_setBit_bootPins : bootPins.foldl (fun v p => setBit v p.1 p.2) 0x00 = 0x18 := by decide

/-- INIT's two assignments give 0x18, and its flush writes it. -/
theorem flushBus_boot {e : Env} (hg : e.link.ask.1 = true) :
    flushBus .ctl (bootPins.foldl (fun u p => assignPin .ctl p.1 p.2 u) { State.reset with env := e }) =
      .done () (booted e) := by
  have hassign : bootPins.foldl (fun u p => assignPin .ctl p.1 p.2 u) { State.reset with env := e } =
      State.setShadow { State.reset with env := e } .ctl 0x18 := foldl_setBit_bootPins ▸ rfl
  rw [hassign, flushBus, tWrite_granted hg]
  rfl

/-- Settles O4: the two SETPINs put 0x18 in the control shadow, and the FLUSH writes it. -/
theorem bootSequenceReachesLaunch : Obligations.BootSequenceReachesLaunch := by
  intro e hg
  obtain ⟨v, hv, hsame⟩ := execAll_setpins .ctl bootPins [.flush .ctl]
    (SameButResponses.refl { State.reset with env := e }) rfl
  obtain ⟨w, u, hw, hu, huw⟩ := execAll_flush .ctl hsame rfl rfl
  rw [flushBus_boot (Link.grants_succ hg).1] at hu
  obtain rfl : booted e = u := hu
  have hready := (booted_launchReady e).sameButResponses huw
  refine ⟨w, hv.trans hw, ?_, ?_, ?_, hready⟩ <;> obtain ⟨q, rs, rfl⟩ := sameButResponses_iff.1 huw <;> rfl

end Sys2Proof.Machine
end

section
/-! PROOFS. The address cycles read back (42_address_mapper.md), and the addresses PAGEREAD and ERASE send (43_flash_operations.md
sections 2 and 3). -/

namespace Sys2Proof.Machine

/-- The address that five cycles carry, by the weights of their places. -/
def cyclesAddress : List Byte → Nat
  | [c0, c1, c2, c3, c4] =>
    c0.toNat + c1.toNat * 2 ^ 8 + c2.toNat * 2 ^ 12 + c3.toNat * 2 ^ 20 + c4.toNat * 2 ^ 28
  | _ => 0

theorem cyclesAddress_mapCycles (a : Word) : cyclesAddress (mapCycles a) = a.toNat % 2 ^ 30 := by
  rw [mapCycles_eq, cyclesAddress]
  simp only [BitVec.toNat_ofNat, Nat.reducePow]
  omega

/-- The cycles are a function of the address modulo 2^30. -/
theorem mapCycles_congr {a b : Word} (h : a.toNat % 2 ^ 30 = b.toNat % 2 ^ 30) : mapCycles a = mapCycles b := by
  have h8 : a.toNat % 256 = b.toNat % 256 := by omega
  have h12 : a.toNat / 2 ^ 8 % 16 = b.toNat / 2 ^ 8 % 16 := by omega
  have h20 : a.toNat / 2 ^ 12 % 256 = b.toNat / 2 ^ 12 % 256 := by omega
  have h28 : a.toNat / 2 ^ 20 % 256 = b.toNat / 2 ^ 20 % 256 := by omega
  have h30 : a.toNat / 2 ^ 28 % 4 = b.toNat / 2 ^ 28 % 4 := by omega
  rw [mapCycles_eq, mapCycles_eq, h8, h12, h20, h28, h30]

theorem toNat_and_mask (a : Word) : (a &&& 0x3FFFFFFF).toNat = a.toNat % 2 ^ 30 := by
  rw [BitVec.toNat_and]
  exact Nat.and_two_pow_sub_one_eq_mod a.toNat 30

/-- Settles O31: the cycles carry the address modulo 2^30, and nothing else of it. -/
theorem mapInverse : Obligations.MapInverse := by
  refine fun a => ⟨⟨_, _, _, _, _, rfl, cyclesAddress_mapCycles a⟩, mapCycles_congr ?_, fun b ha hb h => ?_⟩
  · rw [toNat_and_mask, Nat.mod_mod]
  · have hmod : a.toNat % 2 ^ 30 = b.toNat % 2 ^ 30 := by rw [← cyclesAddress_mapCycles, h, cyclesAddress_mapCycles]
    exact BitVec.eq_of_toNat_eq (by rwa [Nat.mod_eq_of_lt ha, Nat.mod_eq_of_lt hb] at hmod)

/-- The product of a page of the geometry does not wrap (R212). -/
theorem readAddress_toNat {p : Word} (h : p.toNat < 262144) :
    (readAddress Config.standard p).toNat = 2112 * p.toNat := by
  have hstride : Config.standard.readStride = 2112 := rfl
  rw [readAddress, hstride, BitVec.toNat_ofNat]
  omega

/-- The first two cycles carry the column (R204). -/
theorem column_of_cycles (x : Nat) :
    (BitVec.ofNat 8 (x % 256)).toNat + 256 * (BitVec.ofNat 8 (x / 2 ^ 8 % 16)).toNat = x % 4096 := by
  simp only [BitVec.toNat_ofNat, Nat.reducePow]
  omega

/-- The last three cycles carry the row (R204). -/
theorem row_of_cycles {x : Nat} (h : x < 2 ^ 30) :
    (BitVec.ofNat 8 (x / 2 ^ 12 % 256)).toNat + 256 * (BitVec.ofNat 8 (x / 2 ^ 20 % 256)).toNat +
      65536 * (BitVec.ofNat 8 (x / 2 ^ 28 % 4)).toNat = x / 4096 := by
  simp only [BitVec.toNat_ofNat, Nat.reducePow]
  omega

/-- Settles O32: below 2^30 the first two cycles are the address modulo 4096 and the last three the quotient. -/
theorem pagereadAddressSent : Obligations.PagereadAddressSent := by
  intro p h
  have hp : p.toNat < 262144 := h
  have haddress := readAddress_toNat hp
  refine ⟨haddress, by omega, _, _, _, _, _, mapCycles_eq _, ?_, ?_, by omega⟩ <;> rw [haddress]
  · exact column_of_cycles _
  · exact row_of_cycles (by omega)

/-- The product of a block index is 2^17 b, modulo 2^32 (R218). -/
theorem eraseAddress_toNat (b : Word) :
    (eraseAddress Config.standard b).toNat = 131072 * b.toNat % 4294967296 := by
  have hblock : Config.standard.erasePageBytes * Config.standard.pagesPerBlock = 131072 := rfl
  rw [eraseAddress, hblock, BitVec.toNat_ofNat]

/-- Settles O33: cycles 2 to 4 of 2^17 b modulo 2^32. -/
theorem eraseRowSent : Obligations.EraseRowSent := by
  refine fun b => ⟨?_, fun h => ?_⟩
  · have h12 : 131072 * b.toNat % 4294967296 / 4096 % 256 = b.toNat % 8 * 32 := by omega
    have h20 : 131072 * b.toNat % 4294967296 / 1048576 % 256 = b.toNat / 8 % 256 := by omega
    have h28 : 131072 * b.toNat % 4294967296 / 268435456 % 4 = b.toNat / 2048 % 4 := by omega
    simp only [rowCycles, mapCycles_eq, eraseAddress_toNat, Nat.reducePow, h12, h20, h28, List.drop]
  · have hb : b.toNat < 4096 := h
    omega

end Sys2Proof.Machine
end

section
/-! PROOFS. A reset inside CMDLATCH, ADDRLATCH or LATCHOUT (70_reset_and_hazards.md sections 1 and 3). After its check each makes one
event per micro-step, so that after n of them the first n events are made. -/

namespace Sys2Proof.Machine

section
variable {c : Config} {ms ns : List Micro} {loc loc' : Locals} {s s' : State}

/-! ### Parts of a run that leads on -/

theorem Leads.split (h : Leads c (ms ++ ns) loc s loc' s') : ∃ l t, Leads c ms loc s l t ∧ Leads c ns l t loc' s' := by
  induction ms generalizing loc s with
  | nil => exact ⟨loc, s, ⟨rfl, rfl⟩, h⟩
  | cons m ms ih =>
    obtain ⟨l, t, hm, ht⟩ := h
    obtain ⟨l', t', hfst, hsnd⟩ := ih ht
    exact ⟨l', t', ⟨l, t, hm, hfst⟩, hsnd⟩

theorem Leads.runMicros_eq (h : Leads c ms loc s loc' s') (op : Instr) (k : Nat) :
    runMicros c op ms k loc s = s'.park op (k + ms.length) loc' := by
  have hrun := runMicros_leads (ns := []) (op := op) (k := k) h
  rwa [List.append_nil] at hrun

theorem Leads.sameHost (h : Leads c ms loc s loc' s') : SameHost s s' := by
  have hhost := runMicros_sameHost c .program ms 0 loc s
  rw [h.runMicros_eq] at hhost
  exact ⟨hhost.program, hhost.resetIn⟩

/-- Micro-steps that no configure call is among leave the I/O bus turned as it was. -/
theorem Leads.lineDir_eq (h : Leads c ms loc s loc' s') (hms : ∀ m ∈ ms, Component.lineDir ∉ m.writes) :
    s'.env.lineDir = s.env.lineDir := by
  have hline := runMicros_unchanged (op := .program) hms 0 loc (c := c) s
  rw [h.runMicros_eq] at hline
  exact hline

/-- A micro-step makes at most one event. -/
theorem Leads.hist_grows (h : Leads c ms loc s loc' s') : ∃ es, s'.hist = s.hist ++ es ∧ es.length ≤ ms.length := by
  induction ms generalizing loc s with
  | nil => exact ⟨[], by rw [h.2, List.append_nil], le_rfl⟩
  | cons m ms ih =>
    obtain ⟨l, t, hm, ht⟩ := h
    obtain ⟨es, hes, hlen⟩ := ih ht
    have hone := growsByOne_stepRelation.microEffect c loc s m
    rw [hm] at hone
    obtain hsame | ⟨e, he⟩ : GrowsByOne s t := hone
    · exact ⟨es, by rw [hes, hsame], Nat.le_succ_of_le hlen⟩
    · exact ⟨e :: es, by rw [hes, he, List.append_assoc, List.singleton_append], Nat.succ_le_succ hlen⟩

/-- As many events as micro-steps: after n micro-steps the first n events are made. -/
theorem Leads.take {es : List Event} (h : Leads c ms loc s loc' s') (hes : s'.hist = s.hist ++ es)
    (hlen : es.length = ms.length) {n : Nat} (hn : n ≤ es.length) :
    ∃ l t, Leads c (ms.take n) loc s l t ∧ t.hist = s.hist ++ es.take n := by
  rw [← List.take_append_drop n ms] at h
  obtain ⟨l, t, hfst, hsnd⟩ := h.split
  obtain ⟨es₁, h₁, hlen₁⟩ := hfst.hist_grows
  obtain ⟨es₂, h₂, hlen₂⟩ := hsnd.hist_grows
  rw [h₂, h₁, List.append_assoc] at hes
  obtain rfl := List.append_cancel_left hes
  rw [List.length_append] at hlen hn
  rw [List.length_take] at hlen₁
  rw [List.length_drop] at hlen₂
  have hn₁ : n = es₁.length := by omega
  exact ⟨l, t, hfst, by rw [h₁, hn₁, List.take_left]⟩

/-! ### The finer machine through an operation that is cut -/

theorem advances_leads {op : Instr} {k : Nat} (hk : (microProgram c op).drop k = ms ++ ns) (h : Leads c ms loc s loc' s') :
    advances c ms.length (s.park op k loc) = s'.park op (k + ms.length) loc' := by
  induction ms generalizing k loc s with
  | nil =>
    obtain ⟨rfl, rfl⟩ := h
    rfl
  | cons m ms ih =>
    obtain ⟨l, t, hm, ht⟩ := h
    obtain ⟨hget, hdrop⟩ := getElem?_of_drop_eq_cons hk
    have hstep : microEffect c loc (s.park op k loc) m = .go l (t.park op k loc) :=
      (microEffect_mapAnswers (fun _ => .run op k loc) id id c loc s m).trans (congrArg _ hm)
    rw [List.length_cons, advances_succ, advance_run rfl, microStep_go rfl hget hstep]
    exact (ih hdrop ht).trans (congrArg (fun j => s'.park op j loc') (by omega))

/-- An operation that checks and then makes as many events as micro-steps, cut by a reset after n of them (R282, R298). -/
theorem stepWith_cut {i : Instr} {W : Descriptor} {rest : List Descriptor} {pre : List (CtlSignal × Bool)} {a : Answer}
    {es : List Event} {n : Nat} (hseq : s.seq = .idle) (hp : s.env.program = W :: rest) (hd : decode c W = .ok i)
    (hdue : resetDue s = some (n + 2)) (hprog : microProgram c i = .check pre :: ms ++ [.answer a])
    (hf : s.fault = none) (hpass : passes c pre s.ctlShadow = true)
    (h : Leads c (.check pre :: ms) Locals.start (s.afterSampling.issued rest) loc' s') (hes : s'.hist = s.hist ++ es)
    (hlen : es.length = ms.length) (hn : n ≤ es.length) :
    ∃ l t, Leads c (ms.take n) Locals.start (s.afterSampling.issued rest) l t ∧
      stepWith c s = .next t.sessionStart ∧ t.env.responses = s.env.responses ∧ t.env.program = rest ∧
      (advances c (n + 2) s.afterSampling).hist = s.hist ++ es.take n := by
  obtain ⟨l₁, t₁, hcheck, hafter⟩ := h
  obtain ⟨rfl, rfl⟩ := Effect.go.inj (hcheck.symm.trans (check_passes hf hpass))
  obtain ⟨l, t, htake, hhist⟩ := hafter.take hes hlen hn
  have hdrop : (microProgram c i).drop 0 = (.check pre :: ms.take n) ++ (ms.drop n ++ [.answer a]) := by
    rw [List.drop_zero, hprog, List.cons_append, List.cons_append, ← List.append_assoc, List.take_append_drop]
  have hchecked : Leads c (.check pre :: ms.take n) Locals.start (s.afterSampling.issued rest) l t :=
    ⟨_, _, hcheck, htake⟩
  have hmade := advances_leads hdrop hchecked
  have hcount : (Micro.check pre :: ms.take n).length = n + 1 := by
    rw [List.length_cons, List.length_take]
    omega
  have hissue : advance c s.afterSampling = (s.afterSampling.issued rest).park i 0 Locals.start := by
    rw [advance, turn_issue (s := s.afterSampling) hseq hp hd]
    rfl
  have hadvances : advances c (n + 2) s.afterSampling = t.park i (n + 1) l := by
    rw [advances_succ, hissue, ← hcount, hmade, Nat.zero_add]
  refine ⟨l, t, htake, ?_, htake.sameAnswers.responses, htake.sameHost.program, ?_⟩
  · rw [stepWith_reset hdue, resetAfter, hadvances]
    rfl
  · rw [hadvances]
    exact hhist

end

/-! ### The three sequences -/

/-- Whether a micro-step leaves the I/O bus turned as it was. -/
def Micro.keepsLines (m : Micro) : Bool := !m.writes.contains .lineDir

theorem lineDir_notMem_writes {ms : List Micro} (h : ms.all Micro.keepsLines = true) {m : Micro} (hm : m ∈ ms) :
    Component.lineDir ∉ m.writes := by
  have hkeeps := List.all_eq_true.1 h m hm
  simpa [Micro.keepsLines] using hkeeps

theorem Leads.lineDir_take {c : Config} {ms : List Micro} {loc loc' : Locals} {s s' : State} {n : Nat}
    (h : Leads c (ms.take n) loc s loc' s') (hms : ms.all Micro.keepsLines = true) :
    s'.env.lineDir = s.env.lineDir :=
  h.lineDir_eq fun _ hm => lineDir_notMem_writes hms (List.mem_of_mem_take hm)

theorem addrlatch_keepsLines (bytes : List Byte) :
    (Micro.raise .ale :: (bytes.flatMap addressSteps ++ [.lower .ale])).all Micro.keepsLines = true := by
  rw [List.all_cons, List.all_append, addressLoop_all (fun _ => rfl) rfl]
  rfl

theorem addrlatchEvents_length (c : Config) (v : Byte) (bytes : List Byte) :
    (addrlatchEvents c v bytes).length = 2 + 6 * bytes.length := by
  simp [addrlatchEvents, addressEvents]
  omega

theorem addressLoop_length (bytes : List Byte) : (bytes.flatMap addressSteps).length = 6 * bytes.length := by
  simp [addressSteps]
  omega

theorem latchoutEvents_length (c : Config) (v : Byte) (bytes : List Byte) :
    (latchoutEvents c v bytes).length = 2 + 5 * bytes.length := by
  simp [latchoutEvents, readEvents]
  omega

theorem readCycles_length (n : Nat) : (readCycles n).length = 5 * n := by
  induction n with
  | zero => rfl
  | succ n ih =>
    rw [readCycles, List.length_append, ih, readCycle]
    simp only [List.length_cons, List.length_nil]
    omega

/-- Inside its loop LATCHOUT has the I/O bus turned in (R168). -/
theorem lineDir_in_latchout {c : Config} {m k : Nat} {loc loc' : Locals} {s s' : State}
    (h : Leads c ((.turnIn :: (readCycles m ++ [.config .output])).take (k + 1)) loc s loc' s')
    (hg : s.env.link.ask.1 = true) (hk : k ≤ 5 * m) : s'.env.lineDir = some .input := by
  obtain ⟨l, t, hturn, hloop⟩ := h
  obtain ⟨-, rfl⟩ := Effect.go.inj (hturn.symm.trans (turnIn_goes hg))
  rw [List.take_append_of_le_length (readCycles_length m ▸ hk)] at hloop
  exact hloop.lineDir_take (readCycles_all rfl m)

/-- Settles O3: the step is the session start of what the advances leave, and they leave the first n events. -/
theorem resetCutsSequence : Obligations.ResetCutsSequence := by
  intro n s rest hseq hf hdue
  rw [step_eq_stepWith]
  refine ⟨fun cmd hp hce hre hg hn => ?_, fun bytes hbytes hp hce hcle hre hg hn => ?_,
    fun m hp hce hwe hale hg hn => ?_⟩
  · have hpass := passes_cmdlatch.2 ⟨hce, hre⟩
    obtain ⟨l, t, htake, hstep, hresp, hprog, hhist⟩ := stepWith_cut hseq hp (decode_encode_cmdlatch _ cmd) hdue rfl hf
      hpass (cmdlatchSteps_leads (s := s.afterSampling.issued rest) standard_wellFormed hf hpass hg) rfl rfl hn
    exact ⟨_, hstep, rfl, rfl, hresp, hprog, htake.lineDir_take rfl, hhist⟩
  · have hpass := passes_addrlatch.2 ⟨hce, hcle, hre⟩
    have hlen : (addrlatchEvents Config.standard s.ctlShadow bytes).length =
        (Micro.raise .ale :: (bytes.flatMap addressSteps ++ [.lower .ale])).length := by
      rw [addrlatchEvents_length, List.length_cons, List.length_append, addressLoop_length, List.length_singleton]
      omega
    obtain ⟨l, t, htake, hstep, hresp, hprog, hhist⟩ := stepWith_cut hseq hp (decode_encode_addrlatch _ hbytes) hdue rfl
      hf hpass (addrlatchSteps_leads (s := s.afterSampling.issued rest) standard_wellFormed hf hpass hg) rfl hlen hn
    exact ⟨_, hstep, rfl, rfl, hresp, hprog, htake.lineDir_take (addrlatch_keepsLines bytes), hhist⟩
  · have hpass := passes_latchout.2 ⟨hce, hwe, hale⟩
    have hlen : (latchoutEvents Config.standard s.ctlShadow (s.dioAhead m.toNat)).length =
        (Micro.turnIn :: (readCycles m.toNat ++ [.config .output])).length := by
      rw [latchoutEvents_length, List.length_cons, List.length_append, readCycles_length, List.length_singleton,
        State.dioAhead, Channel.length_ahead]
      omega
    obtain ⟨l, t, htake, hstep, hresp, hprog, hhist⟩ := stepWith_cut hseq hp (decode_encode_latchout _ m) hdue rfl
      hf hpass (latchoutSteps_leads (s := s.afterSampling.issued rest) hf hpass hg) rfl hlen hn
    refine ⟨_, hstep, rfl, rfl, hresp, hprog, fun hpos hloop => ?_, hhist⟩
    obtain ⟨k, rfl⟩ := Nat.exists_eq_succ_of_ne_zero hpos.ne'
    rw [Nat.add_comm] at hg
    have hline : t.env.lineDir = some .input := lineDir_in_latchout htake (Link.grants_succ hg).1 (by omega)
    refine ⟨hline, rfl, ?_⟩
    rw [dioDriven, State.sessionStart_env, hline]
    rfl

end Sys2Proof.Machine
end

section
/-! PROOFS. What the chip sees (20_memory.md section 4, 60_exceptions.md section 7). From the launch premise each part of an operation
leaves the control byte as it found it, so that its events can be read off one after the other. -/

namespace Sys2Proof.Machine

/-- A control byte with the chip selected and every latch signal and strobe at rest (R286). -/
structure AtRest (c : Config) (v : Byte) : Prop where
  nce : signal c v .nce = false
  nre : signal c v .nre = true
  nwe : signal c v .nwe = true
  cle : signal c v .cle = false
  ale : signal c v .ale = false

section
variable {c : Config} {v w : Byte}

theorem AtRest.cmdlatchShadow_eq (h : AtRest c v) : cmdlatchShadow c v = v := by
  rw [cmdlatchShadow, setSignal_self c v .nwe h.nwe, setSignal_self c v .cle h.cle]

theorem AtRest.addrlatchShadow_eq (h : AtRest c v) (bytes : List Byte) : addrlatchShadow c v bytes = v := by
  rw [addrlatchShadow, setSignal_self c v .nwe h.nwe, ite_self, setSignal_self c v .ale h.ale]

theorem AtRest.raise_nre (h : AtRest c v) : setSignal c v .nre true = v := setSignal_self c v .nre h.nre

/-- nWP is none of the signals of the premise. -/
theorem AtRest.setSignal_nwp (hc : c.wellFormed = true) (h : AtRest c v) (level : Bool) :
    AtRest c (setSignal c v .nwp level) := by
  obtain ⟨hce, hre, hwe, hcle, hale⟩ := h
  constructor <;> simpa [signal_setSignal hc]

/-! ### One write of the control bus -/

theorem edge_rising_iff {S : CtlSignal} :
    edge c S (some v) w = some .rising ↔ signal c v S = false ∧ signal c w S = true := by
  rw [edge]
  cases signal c v S <;> cases signal c w S <;> simp

/-- A write that raises nWE latches what the lines carry, and one that does not latches nothing (R82, R263). -/
theorem latchedBy_known (io : Option Byte) (dir : Option Dir) (l : List Latched) (n : Nat) :
    latchedBy c ⟨some v, io, dir, l, n⟩ w =
      if signal c v .nwe = false ∧ signal c w .nwe = true then
        latchedAt c v w (ChipView.dioByte ⟨some v, io, dir, l, n⟩)
      else [] := by
  rw [latchedBy, edge]
  cases signal c v .nwe <;> cases signal c w .nwe <;> simp

theorem strobeEnds_known (io : Option Byte) (dir : Option Dir) (l : List Latched) (n : Nat) :
    strobeEnds c ⟨some v, io, dir, l, n⟩ w =
      decide (signal c v .nre = false ∧ signal c w .nre = true ∧ signal c w .nce = false) := by
  rw [strobeEnds, edge]
  cases signal c v .nre <;> cases signal c w .nre <;> cases signal c w .nce <;> rfl

/-! ### The parts of an operation -/

/-- nWE rises once, with CLE up and the command on the lines (R163, R263). -/
theorem foldl_cmdlatchEvents (hc : c.wellFormed = true) (h : AtRest c v) (cmd : Byte) (io : Option Byte) (l : List Latched)
    (n : Nat) :
    (cmdlatchEvents c v cmd).foldl (chipEvent c) ⟨some v, io, some .output, l, n⟩ =
      ⟨some v, some cmd, some .output, l ++ [Latched.command (some cmd)], n⟩ := by
  have hlast : setSignal c (setSignal c v .nwe true) .cle false = v := h.cmdlatchShadow_eq
  obtain ⟨hce, hre, hwe, hcle, hale⟩ := h
  simp [cmdlatchEvents, chipEvent, latchedBy_known, strobeEnds_known, latchedAt, ChipView.dioByte,
    signal_setSignal hc, *]

/-- nWE rises once, with ALE up and the byte on the lines (R166, R263). -/
theorem foldl_addressEvents (hc : c.wellFormed = true) (h : AtRest c v) (b : Byte) (io : Option Byte) (l : List Latched)
    (n : Nat) :
    (addressEvents c v b).foldl (chipEvent c) ⟨some (setSignal c v .ale true), io, some .output, l, n⟩ =
      ⟨some (setSignal c v .ale true), some b, some .output, l ++ [Latched.address (some b)], n⟩ := by
  have hup : setSignal c (setSignal c v .ale true) .nwe true = setSignal c v .ale true :=
    setSignal_self c _ .nwe (by simp [signal_setSignal hc, h.nwe])
  obtain ⟨hce, hre, hwe, hcle, hale⟩ := h
  simp [addressEvents, chipEvent, latchedBy_known, strobeEnds_known, latchedAt, ChipView.dioByte,
    signal_setSignal hc, *]

theorem foldl_addressLoop (hc : c.wellFormed = true) (h : AtRest c v) (bytes : List Byte) (io : Option Byte)
    (l : List Latched) (n : Nat) :
    ∃ io', (bytes.flatMap (addressEvents c v)).foldl (chipEvent c)
        ⟨some (setSignal c v .ale true), io, some .output, l, n⟩ =
      ⟨some (setSignal c v .ale true), io', some .output, l ++ bytes.map (fun b => Latched.address (some b)), n⟩ := by
  induction bytes generalizing io l with
  | nil => exact ⟨io, by simp⟩
  | cons b bs ih =>
    obtain ⟨io', hloop⟩ := ih (some b) (l ++ [Latched.address (some b)])
    exact ⟨io', by rw [List.flatMap_cons, List.foldl_append, foldl_addressEvents hc h, hloop]; simp⟩

/-- The rising and the falling of ALE latch nothing, for nWE does not move (R166). -/
theorem foldl_addrlatchEvents (hc : c.wellFormed = true) (h : AtRest c v) (bytes : List Byte) (io : Option Byte)
    (l : List Latched) (n : Nat) :
    ∃ io', (addrlatchEvents c v bytes).foldl (chipEvent c) ⟨some v, io, some .output, l, n⟩ =
      ⟨some v, io', some .output, l ++ bytes.map (fun b => Latched.address (some b)), n⟩ := by
  obtain ⟨io', hloop⟩ := foldl_addressLoop hc h bytes io l n
  have hraise : chipEvent c ⟨some v, io, some .output, l, n⟩ (.wrCtl (setSignal c v .ale true)) =
      ⟨some (setSignal c v .ale true), io, some .output, l, n⟩ := by
    simp [chipEvent, latchedBy_known, strobeEnds_known, signal_setSignal hc, h.nwe, h.nre]
  refine ⟨io', ?_⟩
  rw [addrlatchEvents, h.addrlatchShadow_eq, List.append_assoc, List.singleton_append, List.foldl_cons, hraise,
    List.foldl_append, hloop]
  simp [chipEvent, latchedBy_known, strobeEnds_known, signal_setSignal hc, h.nwe, h.nre]

/-- Each read cycle ends one strobe (R169, R57). -/
theorem foldl_readLoop (hc : c.wellFormed = true) (h : AtRest c v) (bytes : List Byte) (io : Option Byte)
    (dir : Option Dir) (l : List Latched) (n : Nat) :
    (bytes.flatMap (readEvents c v)).foldl (chipEvent c) ⟨some v, io, dir, l, n⟩ =
      ⟨some v, io, dir, l, n + bytes.length⟩ := by
  induction bytes generalizing n with
  | nil => rfl
  | cons b bs ih =>
    have hcycle : (readEvents c v b).foldl (chipEvent c) ⟨some v, io, dir, l, n⟩ = ⟨some v, io, dir, l, n + 1⟩ := by
      simp [readEvents, h.raise_nre, chipEvent, latchedBy_known, strobeEnds_known, signal_setSignal hc, h.nwe, h.nre,
        h.nce]
    rw [List.flatMap_cons, List.foldl_append, hcycle, ih, List.length_cons, Nat.add_assoc, Nat.add_comm 1]

theorem foldl_latchoutEvents (hc : c.wellFormed = true) (h : AtRest c v) (bytes : List Byte) (io : Option Byte)
    (dir : Option Dir) (l : List Latched) (n : Nat) :
    (latchoutEvents c v bytes).foldl (chipEvent c) ⟨some v, io, dir, l, n⟩ =
      ⟨some v, io, some .output, l, n + bytes.length⟩ := by
  rw [latchoutEvents, List.foldl_append, List.foldl_append]
  exact congrArg (fun view => chipEvent c view (.cfgIo .output)) (foldl_readLoop hc h bytes io _ l n)

/-- Reads of the control bus are nothing to the chip (R263). -/
theorem foldl_polls (bytes : List Byte) (view : ChipView) : (bytes.map Event.rdCtl).foldl (chipEvent c) view = view := by
  induction bytes with
  | nil => rfl
  | cons b bs ih => exact ih

/-- nor are the moves of nWP. -/
theorem chipEvent_nwp (hc : c.wellFormed = true) (h : AtRest c v) (level : Bool) (io : Option Byte) (dir : Option Dir)
    (l : List Latched) (n : Nat) :
    chipEvent c ⟨some v, io, dir, l, n⟩ (.wrCtl (setSignal c v .nwp level)) =
      ⟨some (setSignal c v .nwp level), io, dir, l, n⟩ := by
  simp [chipEvent, latchedBy_known, strobeEnds_known, signal_setSignal hc, h.nwe, h.nre]

end

/-! ### What the chip has seen in a state -/

/-- The control pins carry the shadow v, the I/O bus is turned dir, and the chip has latched l and seen n strobes. -/
def Seen (c : Config) (d : Option Dir) (v : Byte) (dir : Option Dir) (l : List Latched) (n : Nat) (s : State) : Prop :=
  s.ctlShadow = v ∧ ∃ io, chipView c d s.hist = ⟨some v, io, dir, l, n⟩

section
variable {c : Config} {d dir : Option Dir} {v : Byte} {l : List Latched} {n : Nat} {s : State}

theorem Seen.cmdlatch (hc : c.wellFormed = true) (hv : AtRest c v) (h : Seen c d v (some .output) l n s) (cmd : Byte) :
    Seen c d v (some .output) (l ++ [Latched.command (some cmd)]) n (cmdlatchEnd c cmd s) := by
  obtain ⟨rfl, io, hview⟩ := h
  refine ⟨hv.cmdlatchShadow_eq, some cmd, ?_⟩
  rw [cmdlatchEnd, chipView_append, hview, foldl_cmdlatchEvents hc hv]

theorem Seen.addrlatch (hc : c.wellFormed = true) (hv : AtRest c v) (h : Seen c d v (some .output) l n s)
    (bytes : List Byte) :
    Seen c d v (some .output) (l ++ bytes.map (fun b => Latched.address (some b))) n (addrlatchEnd c bytes s) := by
  obtain ⟨rfl, io, hview⟩ := h
  obtain ⟨io', hfold⟩ := foldl_addrlatchEvents hc hv bytes io l n
  refine ⟨hv.addrlatchShadow_eq bytes, io', ?_⟩
  rw [addrlatchEnd, chipView_append, hview, hfold]

theorem Seen.latchout (hc : c.wellFormed = true) (hv : AtRest c v) (h : Seen c d v dir l n s) (k : Nat) :
    Seen c d v (some .output) l (n + k) (latchoutEnd c k s) := by
  obtain ⟨rfl, io, hview⟩ := h
  refine ⟨?_, io, ?_⟩
  · rw [latchoutEnd, hv.raise_nre, ite_self]
  · rw [latchoutEnd, chipView_append, hview, foldl_latchoutEvents hc hv, State.dioAhead, Channel.length_ahead]

theorem Seen.polls (h : Seen c d v dir l n s) (reads : Nat) : Seen c d v dir l n (pollEnd reads s) := by
  obtain ⟨rfl, io, hview⟩ := h
  exact ⟨rfl, io, by rw [pollEnd, chipView_append, hview, foldl_polls]⟩

theorem Seen.nwp (hc : c.wellFormed = true) (hv : AtRest c v) (h : Seen c d v dir l n s) (level : Bool) :
    Seen c d (setSignal c v .nwp level) dir l n (drivePinEnd c .nwp level s) := by
  obtain ⟨rfl, io, hview⟩ := h
  refine ⟨rfl, io, ?_⟩
  rw [drivePinEnd, chipView_append, hview, List.foldl_cons, List.foldl_nil, chipEvent_nwp hc hv]

/-- A page read, part by part (R212). -/
theorem Seen.pageread (hc : c.wellFormed = true) (hv : AtRest c v) (h : Seen c d v (some .output) l n s) (page : Word)
    (reads : Nat) :
    Seen c d v (some .output)
      (l ++ [Latched.command (some cmdReadSetup)] ++
        (mapCycles (readAddress c page)).map (fun b => Latched.address (some b)) ++
        [Latched.command (some cmdReadConfirm)]) (n + c.pageBytes) (pagereadEnd c page reads s) :=
  ((((h.cmdlatch hc hv cmdReadSetup).addrlatch hc hv _).cmdlatch hc hv cmdReadConfirm).polls reads).latchout hc hv _

/-- The parts of an ERASE between the rise and the fall of nWP (R218). -/
def eraseBody (c : Config) (block : Word) (reads : Nat) (s : State) : State :=
  latchoutEnd c 1
    (cmdlatchEnd c cmdReadStatus
      (pollEnd reads
        (cmdlatchEnd c cmdEraseConfirm
          (addrlatchEnd c (rowCycles (eraseAddress c block)) (cmdlatchEnd c cmdEraseSetup s)))))

theorem eraseEnd_eq (c : Config) (block : Word) (reads : Nat) (s : State) :
    eraseEnd c block reads s = drivePinEnd c .nwp false (eraseBody c block reads (drivePinEnd c .nwp true s)) := rfl

theorem Seen.eraseBody (hc : c.wellFormed = true) (hv : AtRest c v) (h : Seen c d v (some .output) l n s) (block : Word)
    (reads : Nat) :
    Seen c d v (some .output)
      (l ++ [Latched.command (some cmdEraseSetup)] ++
        (rowCycles (eraseAddress c block)).map (fun b => Latched.address (some b)) ++
        [Latched.command (some cmdEraseConfirm)] ++ [Latched.command (some cmdReadStatus)]) (n + 1)
      (eraseBody c block reads s) :=
  (((((h.cmdlatch hc hv cmdEraseSetup).addrlatch hc hv _).cmdlatch hc hv cmdEraseConfirm).polls reads).cmdlatch hc hv
    cmdReadStatus).latchout hc hv 1

theorem Seen.erase (hc : c.wellFormed = true) (hv : AtRest c v) (h : Seen c d v (some .output) l n s) (block : Word)
    (reads : Nat) :
    Seen c d (setSignal c v .nwp false) (some .output)
      (l ++ [Latched.command (some cmdEraseSetup)] ++
        (rowCycles (eraseAddress c block)).map (fun b => Latched.address (some b)) ++
        [Latched.command (some cmdEraseConfirm)] ++ [Latched.command (some cmdReadStatus)]) (n + 1)
      (eraseEnd c block reads s) := by
  have hup := hv.setSignal_nwp hc true
  rw [← setSignal_setSignal_same c v .nwp true false, eraseEnd_eq]
  exact ((h.nwp hc hv true).eraseBody hc hup block reads).nwp hc hup false

end

/-! ### nWP during an ERASE -/

/-- From s to t the history grows, every control byte written has nWP high, and nWP is high in the shadow at the end. -/
def NwpHigh (c : Config) (s t : State) : Prop :=
  signal c t.ctlShadow .nwp = true ∧ ∃ es, t.hist = s.hist ++ es ∧ ∀ v, Event.wrCtl v ∈ es → signal c v .nwp = true

section
variable {c : Config} {s t u : State}

theorem NwpHigh.trans (h : NwpHigh c s t) (h' : NwpHigh c t u) : NwpHigh c s u := by
  obtain ⟨-, es, hes, hhigh⟩ := h
  obtain ⟨hend, es', hes', hhigh'⟩ := h'
  refine ⟨hend, es ++ es', by rw [hes', hes, List.append_assoc], fun v hv => ?_⟩
  exact (List.mem_append.1 hv).elim (hhigh v) (hhigh' v)

theorem signal_addrlatchShadow_nwp (hc : c.wellFormed = true) (v : Byte) (bytes : List Byte) :
    signal c (addrlatchShadow c v bytes) .nwp = signal c v .nwp := by
  rw [addrlatchShadow]
  split <;> simp [signal_setSignal hc]

theorem NwpHigh.cmdlatch (hc : c.wellFormed = true) (h : NwpHigh c s t) (cmd : Byte) :
    NwpHigh c s (cmdlatchEnd c cmd t) := by
  have hhigh := h.1
  refine h.trans ⟨by simp [cmdlatchEnd, signal_cmdlatchShadow hc, hhigh], _, rfl, fun v hv => ?_⟩
  simp only [cmdlatchEvents, List.mem_cons, Event.wrCtl.injEq, reduceCtorEq, List.not_mem_nil, false_or, or_false] at hv
  obtain rfl | rfl | rfl | rfl := hv <;> simpa [signal_setSignal hc]

theorem NwpHigh.addrlatch (hc : c.wellFormed = true) (h : NwpHigh c s t) (bytes : List Byte) :
    NwpHigh c s (addrlatchEnd c bytes t) := by
  have hhigh := h.1
  have hend : signal c (addrlatchShadow c t.ctlShadow bytes) .nwp = true :=
    (signal_addrlatchShadow_nwp hc _ bytes).trans hhigh
  refine h.trans ⟨hend, _, rfl, fun v hv => ?_⟩
  simp only [addrlatchEvents, addressEvents, List.mem_append, List.mem_flatMap, List.mem_cons, Event.wrCtl.injEq,
    reduceCtorEq, List.not_mem_nil, false_or, or_false] at hv
  obtain (rfl | ⟨b, -, rfl | rfl⟩) | rfl := hv
  · simpa [signal_setSignal hc]
  · simpa [signal_setSignal hc]
  · simpa [signal_setSignal hc]
  · exact hend

theorem NwpHigh.latchout (hc : c.wellFormed = true) (h : NwpHigh c s t) (n : Nat) : NwpHigh c s (latchoutEnd c n t) := by
  have hhigh := h.1
  refine h.trans ⟨?_, _, rfl, fun v hv => ?_⟩
  · rw [latchoutEnd]
    split <;> simpa [signal_setSignal hc]
  · simp only [latchoutEvents, readEvents, List.mem_append, List.mem_flatMap, List.mem_cons, Event.wrCtl.injEq,
      reduceCtorEq, List.not_mem_nil, false_or, or_false] at hv
    obtain ⟨b, -, rfl | rfl⟩ := hv <;> simpa [signal_setSignal hc]

theorem NwpHigh.polls (h : NwpHigh c s t) (reads : Nat) : NwpHigh c s (pollEnd reads t) :=
  h.trans ⟨h.1, _, rfl, fun v hv => by simp at hv⟩

theorem NwpHigh.eraseBody (hc : c.wellFormed = true) (h : signal c s.ctlShadow .nwp = true) (block : Word) (reads : Nat) :
    NwpHigh c s (eraseBody c block reads s) := by
  have hstart : NwpHigh c s s := ⟨h, [], (List.append_nil _).symm, fun _ hv => absurd hv List.not_mem_nil⟩
  exact (((((hstart.cmdlatch hc cmdEraseSetup).addrlatch hc _).cmdlatch hc cmdEraseConfirm).polls reads).cmdlatch hc
    cmdReadStatus).latchout hc 1

/-! ### From the launch premise -/

theorem LaunchReady.atRest (h : LaunchReady c s) : AtRest c s.ctlShadow := by
  obtain ⟨-, -, -, hce, hre, hwe, hcle, hale, -⟩ := h
  exact ⟨hce, hre, hwe, hcle, hale⟩

theorem LaunchReady.fault (h : LaunchReady c s) : s.fault = none := by
  obtain ⟨hf, -⟩ := h
  exact hf

theorem LaunchReady.seq (h : LaunchReady c s) : s.seq = .idle := by
  obtain ⟨-, hseq, -⟩ := h
  exact hseq

/-- What the chip has seen where the history agrees with the state. -/
theorem LaunchReady.seen {d : Option Dir} (h : LaunchReady c s) (ht : Tracks c d s) :
    Seen c d s.ctlShadow s.env.lineDir (chipView c d s.hist).latched (chipView c d s.hist).strobes s := by
  obtain ⟨-, -, hlatch, -⟩ := h
  obtain ⟨hctl, -, hdir, -⟩ := ht
  refine ⟨rfl, (chipView c d s.hist).io, ?_⟩
  rw [← hlatch, ← hctl, ← hdir]

theorem Seen.latched_eq {d dir : Option Dir} {v : Byte} {l : List Latched} {n : Nat} (h : Seen c d v dir l n s) :
    (chipView c d s.hist).latched = l := by
  obtain ⟨-, io, hview⟩ := h
  rw [hview]

theorem Seen.strobes_eq {d dir : Option Dir} {v : Byte} {l : List Latched} {n : Nat} (h : Seen c d v dir l n s) :
    (chipView c d s.hist).strobes = n := by
  obtain ⟨-, io, hview⟩ := h
  rw [hview]

/-- A page read is seen whenever its end state is reached (R266, R212). -/
theorem pagereadSeen {d : Option Dir} (hc : c.wellFormed = true) (h : LaunchReady c s) (ht : Tracks c d s)
    (hd : s.env.lineDir = some .output) (page : Word) (reads : Nat) (r : Response) :
    PagereadSeen c d page s ((pagereadEnd c page reads s).respond r) := by
  have hseen := (hd ▸ h.seen ht).pageread hc h.atRest page reads
  exact ⟨hseen.latched_eq, hseen.strobes_eq⟩

/-- So is a block erase, between the rise and the fall of nWP (R266, R218, R222). -/
theorem eraseSeen {d : Option Dir} (hc : c.wellFormed = true) (h : LaunchReady c s) (ht : Tracks c d s)
    (hd : s.env.lineDir = some .output) (block : Word) (reads : Nat) (r : Response) :
    EraseSeen c d block s ((eraseEnd c block reads s).respond r) := by
  have hs : Seen c d s.ctlShadow (some .output) _ _ s := hd ▸ h.seen ht
  have hend := hs.erase hc h.atRest block reads
  obtain ⟨-, es, hes, hhigh⟩ := NwpHigh.eraseBody (s := drivePinEnd c .nwp true s) hc
    (signal_setSignal_same c _ .nwp true) block reads
  refine ⟨⟨es, ?_, hhigh⟩, ?_, hend.strobes_eq⟩
  · have hshadow := hend.1
    rw [State.respond_hist, ← hshadow, eraseEnd_eq, drivePinEnd, hes]
    rfl
  · rw [State.respond_hist, hend.latched_eq]
    exact List.append_assoc _ [_] [_]

end

/-- Settles O56: one rise of nWE, with CLE up and the command on the lines. -/
theorem cmdlatchLatchesCommand : Obligations.CmdlatchLatchesCommand := by
  intro cmd d s h ht hd hg
  have hv := h.atRest
  have hs : Seen Config.standard d s.ctlShadow (some .output) _ _ s := hd ▸ h.seen ht
  have hend := hs.cmdlatch standard_wellFormed hv cmd
  exact ⟨_, (exec_idle _ h.seq).trans (congrArg _
    (perform_cmdlatch standard_wellFormed h.fault (passes_cmdlatch.2 ⟨hv.nce, hv.nre⟩) hg)),
    hend.latched_eq, hend.strobes_eq⟩

/-- Settles O57: one rise of nWE per byte, with ALE up and the byte on the lines. -/
theorem addrlatchLatchesBytes : Obligations.AddrlatchLatchesBytes := by
  intro bytes d s h ht hd hg
  have hv := h.atRest
  have hs : Seen Config.standard d s.ctlShadow (some .output) _ _ s := hd ▸ h.seen ht
  have hend := hs.addrlatch standard_wellFormed hv bytes
  exact ⟨_, (exec_idle _ h.seq).trans (congrArg _
    (perform_addrlatch standard_wellFormed h.fault (passes_addrlatch.2 ⟨hv.nce, hv.cle, hv.nre⟩) hg)),
    hend.latched_eq, hend.strobes_eq⟩

/-- Settles O58: one rise of nRE per read cycle, and none of nWE. -/
theorem latchoutStrobesExactly : Obligations.LatchoutStrobesExactly := by
  intro n d s h ht hg
  have hv := h.atRest
  have hend := (h.seen ht).latchout standard_wellFormed hv n.toNat
  exact ⟨_, (exec_idle _ h.seq).trans (congrArg _
    (perform_latchout h.fault (passes_latchout.2 ⟨hv.nce, hv.nwe, hv.ale⟩) hg)), hend.strobes_eq, hend.latched_eq⟩

/-- Settles O59: the parts of a page read one after the other; its busy-poll reads are nothing to the chip. -/
theorem pagereadSeenByChip : Obligations.PagereadSeenByChip := by
  intro p d s h ht hd
  have hv := h.atRest
  refine ⟨fun hg hr => ?_, fun n rest hreset hp hg hr => ?_⟩
  · exact ⟨_, (exec_idle _ h.seq).trans (congrArg _ (perform_pageread standard_wellFormed h.fault hv.nce hv.nre hg hr)),
      pagereadSeen standard_wellFormed h ht hd p 1 _⟩
  · exact ⟨_, (core_run_eq_stepsWith _ _).trans
      (stepsWith_pageread standard_wellFormed rfl rfl h.seq h.fault hv.nce hv.nre hreset hp hg hr),
      pagereadSeen (s := s.issued rest) standard_wellFormed h ht hd p (n + 1) _⟩

/-- Settles O60: the parts of a block erase between the rise and the fall of nWP. -/
theorem eraseSeenByChip : Obligations.EraseSeenByChip := by
  intro b d s h ht hd
  have hv := h.atRest
  refine ⟨fun hg hr => ?_, fun n rest hreset hp hg hr => ?_⟩
  · exact ⟨_, (exec_idle _ h.seq).trans (congrArg _ (perform_erase_ready standard_wellFormed h.fault hv.nce hv.nre hg hr)),
      eraseSeen standard_wellFormed h ht hd b 1 _⟩
  · exact ⟨_, (core_run_eq_stepsWith _ _).trans
      (stepsWith_erase standard_wellFormed rfl rfl h.seq h.fault hv.nce hv.nre hreset hp hg hr),
      eraseSeen (s := s.issued rest) standard_wellFormed h ht hd b (n + 1) _⟩

end Sys2Proof.Machine
end

section
/-! PROOFS. DUMP hands its pages over as they complete (43_flash_operations.md sections 2 and 5). What the host has been handed only
grows; and a DUMP hands over nothing but whole pages, so that wherever it stops the stream ends after one of them. -/

namespace Sys2Proof.Machine

/-! ### The output stream only grows -/

theorem stream_notMem_writes {m : Micro} (hm : m ≠ .deliver) : Component.stream ∉ m.writes := by
  cases m with
  | deliver => exact absurd rfl hm
  | assign bus pin on => cases bus <;> simp [Micro.writes, shadowOf]
  | flush bus => cases bus <;> simp [Micro.writes, latchOf, callWrites]
  | sample bus => cases bus <;> simp [Micro.writes, channelOf, callWrites]
  | _ => simp [Micro.writes, callWrites]

/-- Only the delivery of a page writes the host's stream (R215). -/
theorem microEffect_sameStream {m : Micro} (hm : m ≠ .deliver) (c : Config) (loc : Locals) (s : State) :
    (microEffect c loc s m).All fun t => t.env.stream = s.env.stream :=
  (microEffect_unchanged (stream_notMem_writes hm) loc s).mono fun _ h => h

/-- The stream of t begins with the stream of s. -/
def StreamGrown (s t : State) : Prop := ∃ bytes, t.env.stream = s.env.stream ++ bytes

theorem streamGrown_kept (c : Config) (s : State) : Kept c (StreamGrown s) where
  park h := h
  respond h := h
  sampled h := h
  program h := h
  micro := by
    rintro u ⟨bytes, hu⟩ m loc
    by_cases hm : m = .deliver
    · subst hm
      exact ⟨bytes ++ u.obuf, by rw [State.deliver_env, hu, List.append_assoc]⟩
    · exact (microEffect_sameStream hm c loc u).mono fun t ht => ⟨bytes, ht.trans hu⟩

theorem step_streamGrown {s t : State} (h : step s = .next t) : StreamGrown s t :=
  (streamGrown_kept Config.standard s).stepWith (fun h => h) ⟨[], (List.append_nil _).symm⟩ (step_eq_stepWith s ▸ h)

/-! ### A DUMP that waits (R215, R217) -/

theorem dumpSteps_add (c : Config) (i m n : Nat) : dumpSteps c i (m + n) = dumpSteps c i m ++ dumpSteps c (i + m) n := by
  induction m generalizing i with
  | zero => rw [Nat.zero_add, dumpSteps, List.nil_append, Nat.add_zero]
  | succ m ih =>
    rw [Nat.succ_add, dumpSteps, ih, dumpSteps, List.append_assoc, List.append_assoc,
      show i + 1 + m = i + (m + 1) by omega]

section
variable {c : Config} {s : State}

@[simp] theorem dumpEnd_fault (c : Config) (i n : Nat) (s : State) : (dumpEnd c i n s).fault = s.fault := by
  induction n generalizing i s with
  | zero => rfl
  | succ n ih => rw [dumpEnd, ih, State.deliver_fault, pagereadEnd_fault]

theorem dumpEnd_link (c : Config) (i n : Nat) (s : State) :
    (dumpEnd c i n s).env.link = s.env.link.spend (n * pagereadCalls c 1) := by
  induction n generalizing i s with
  | zero => rw [Nat.zero_mul]; rfl
  | succ n ih => rw [dumpEnd, ih, State.deliver_env, pagereadEnd_link, Nat.succ_mul, Nat.add_comm, Link.spend_add]

theorem dumpEnd_ctlIn (c : Config) (i n : Nat) (s : State) :
    (dumpEnd c i n s).env.ctlIn = s.env.ctlIn.skip Config.freeCtlByte n := by
  induction n generalizing i s with
  | zero => rfl
  | succ n ih => rw [dumpEnd, ih, State.deliver_env, pagereadEnd_ctlIn, Nat.add_comm, Channel.skip_add]

theorem signal_dumpEnd_nce (hc : c.wellFormed = true) (i n : Nat) (s : State) :
    signal c (dumpEnd c i n s).ctlShadow .nce = signal c s.ctlShadow .nce := by
  induction n generalizing i s with
  | zero => rfl
  | succ n ih =>
    rw [dumpEnd, ih, State.deliver_ctlShadow, signal_pagereadEnd hc]
    rfl

theorem signal_dumpEnd_nre (hc : c.wellFormed = true) (h : signal c s.ctlShadow .nre = true) (i n : Nat) :
    signal c (dumpEnd c i n s).ctlShadow .nre = true := by
  induction n generalizing i s with
  | zero => exact h
  | succ n ih =>
    rw [dumpEnd]
    refine ih ?_ _
    rw [State.deliver_ctlShadow, signal_pagereadEnd hc]
    simp [h]

/-- The variables of a DUMP that has just opened its stream (R215). -/
def dumpLocals (s : State) : Locals := { Locals.start with mark := s.env.stream.length }

/-- The micro-steps of a DUMP cut at the busy-poll read of page i. -/
theorem dumpProgram_eq_poll {i : Nat} (hi : i < c.nPages) :
    ∃ ms, dumpProgram c = ([.openStream] ++ dumpSteps c 0 i ++ pagereadHead c (BitVec.ofNat 32 i)) ++ .poll :: ms := by
  obtain ⟨m, hm⟩ := Nat.exists_eq_add_of_lt hi
  refine ⟨latchoutSteps c.pageBytes ++ ([.deliver] ++ dumpSteps c (i + 1) m) ++ [.answer .stream], ?_⟩
  rw [dumpProgram, hm, Nat.add_assoc, dumpSteps_add, Nat.zero_add, dumpSteps, pagereadSteps_eq]
  simp only [List.append_assoc, List.cons_append, List.nil_append]

/-- A DUMP whose first i pages are ready at once comes to the busy-poll of page i. -/
theorem dumpWait_leads (hc : c.wellFormed = true) {i : Nat} (hf : s.fault = none)
    (hce : signal c s.ctlShadow .nce = false) (hre : signal c s.ctlShadow .nre = true)
    (hg : s.env.link.grants (i * pagereadCalls c 1 + 27) = true)
    (hr : (s.ctlAhead i).map (ready c) = List.replicate i true) :
    Leads c ([.openStream] ++ dumpSteps c 0 i ++ pagereadHead c (BitVec.ofNat 32 i)) Locals.start s (dumpLocals s)
      (pagereadHeadEnd c (BitVec.ofNat 32 i) (dumpEnd c 0 i s)) := by
  obtain ⟨hgpages, hghead⟩ := Link.grants_split hg
  have hopen : Leads c [.openStream] Locals.start s (dumpLocals s) s := ⟨_, _, rfl, rfl, rfl⟩
  exact (hopen.append (dumpSteps_leads hc hf hce hre hgpages hr rfl)).append (pagereadHead_leads hc
    ((dumpEnd_fault ..).trans hf) ((signal_dumpEnd_nce hc ..).trans hce) (signal_dumpEnd_nre hc hre ..)
    (dumpEnd_link c 0 i s ▸ hghead))

/-- It waits there if the page is not ready, having handed over the i pages. -/
theorem perform_dump_waits (hc : c.wellFormed = true) (hlimit : c.pollLimit = none) {i : Nat} (hi : i < c.nPages)
    (hf : s.fault = none) (hce : signal c s.ctlShadow .nce = false) (hre : signal c s.ctlShadow .nre = true)
    (hg : s.env.link.grants (i * pagereadCalls c 1 + 27 + 1) = true)
    (hr : (s.ctlAhead (i + 1)).map (ready c) = List.replicate i true ++ [false]) :
    ∃ (k : Nat) (loc : Locals) (u : State), perform c .dump s = u.park .dump k loc ∧
      u.env.responses = s.env.responses ∧ u.env.stream = s.env.stream ++ s.dioAhead (i * c.pageBytes) := by
  obtain ⟨ms, hprog⟩ := dumpProgram_eq_poll hi
  obtain ⟨hghead, hgpoll⟩ := Link.grants_split hg
  obtain ⟨hrpages, hrpoll⟩ := ready_split hr List.length_replicate
  have hpoll : (pagereadHeadEnd c (BitVec.ofNat 32 i) (dumpEnd c 0 i s)).env.link.ask.1 = true := by
    rw [pagereadHeadEnd_link, dumpEnd_link, ← Link.spend_add]
    exact (Link.grants_succ hgpoll).1
  have hunready : ((pagereadHeadEnd c (BitVec.ofNat 32 i) (dumpEnd c 0 i s)).ctlAhead 1).map (ready c) = [false] := by
    have hdevice : (pagereadHeadEnd c (BitVec.ofNat 32 i) (dumpEnd c 0 i s)).env.ctlIn = (pollEnd i s).env.ctlIn :=
      dumpEnd_ctlIn c 0 i s
    rw [← hrpoll, State.ctlAhead, State.ctlAhead, hdevice]
  have hwait := poll_unready (c := c) (loc := dumpLocals s) hpoll hunready (by rw [limitReached, hlimit])
  rw [perform, microProgram, hprog]
  exact ⟨_, _, _, (runMicros_leads (dumpWait_leads hc hf hce hre hghead hrpages)).trans (runMicros_again hwait),
    dumpEnd_responses c 0 i s, dumpEnd_stream c 0 i s⟩

end

/-! ### Errors -/

/-- An error leaves the variables as they were. -/
def Effect.StopsAt (loc : Locals) : Effect → Prop
  | .stop _ l _ => l = loc
  | .go _ _ => True
  | .again _ _ => True
  | .finish _ _ => True

theorem afterCall_stopsAt {α : Type} {loc : Locals} {r : CallResult α} {next : α → State → Effect}
    (h : ∀ a t, (next a t).StopsAt loc) : (afterCall loc r next).StopsAt loc := by
  cases r with
  | done a t => exact h a t
  | failed t => rfl

theorem afterPoll_stopsAt (c : Config) (loc : Locals) (v : Byte) (s : State) : (afterPoll c loc v s).StopsAt loc := by
  rw [afterPoll]
  split
  · trivial
  · split
    · rfl
    · trivial

theorem microEffect_stopsAt (c : Config) (loc : Locals) (s : State) (m : Micro) :
    (microEffect c loc s m).StopsAt loc := by
  cases m with
  | check pre =>
    rw [microEffect]
    split
    · rfl
    · split
      · trivial
      · rfl
  | poll => exact afterCall_stopsAt fun v t => afterPoll_stopsAt c loc v t
  | assign => trivial
  | delay => trivial
  | openStream => trivial
  | deliver => trivial
  | answer => trivial
  | _ => exact afterCall_stopsAt fun _ _ => trivial

/-! ### Whole pages -/

/-- Every delivery among the micro-steps hands over p bytes, once they lead on from an output buffer of n bytes. -/
def DeliversPages (p : Nat) : List Micro → Nat → Prop
  | [], _ => True
  | .turnIn :: ms, _ => DeliversPages p ms 0
  | .fetchByte :: ms, n => DeliversPages p ms (n + 1)
  | .deliver :: ms, n => n = p ∧ DeliversPages p ms n
  | _ :: ms, n => DeliversPages p ms n

theorem DeliversPages.of_not_movesData {p n : Nat} {m : Micro} {ms : List Micro} (hm : m.movesData = false)
    (h : DeliversPages p (m :: ms) n) : DeliversPages p ms n := by
  cases m with
  | turnIn => cases hm
  | fetchByte => cases hm
  | deliver => cases hm
  | _ => exact h

theorem deliversPages_readCycles {p : Nat} {ms : List Micro} (k n : Nat) (h : DeliversPages p ms (n + k)) :
    DeliversPages p (readCycles k ++ ms) n := by
  induction k generalizing n with
  | zero => exact h
  | succ k ih => exact ih (n + 1) (by rwa [Nat.add_assoc, Nat.add_comm 1])

theorem deliversPages_pagereadSteps (c : Config) (page : Word) {p : Nat} {ms : List Micro}
    (h : DeliversPages p ms c.pageBytes) (n : Nat) : DeliversPages p (pagereadSteps c page ++ ms) n := by
  have hloop : DeliversPages p (readCycles c.pageBytes ++ ([.config .output] ++ ms)) 0 :=
    deliversPages_readCycles _ 0 (by rwa [Nat.zero_add])
  simp only [pagereadSteps, latchoutSteps, List.append_assoc]
  exact hloop

/-- Each page read fills the buffer with one page, and then it is delivered (R215). -/
theorem deliversPages_dumpSteps (c : Config) (i k n : Nat) :
    DeliversPages c.pageBytes (dumpSteps c i k ++ [.answer .stream]) n := by
  induction k generalizing i n with
  | zero => trivial
  | succ k ih =>
    have hdeliver : DeliversPages c.pageBytes ([.deliver] ++ dumpSteps c (i + 1) k ++ [.answer .stream]) c.pageBytes :=
      ⟨rfl, ih (i + 1) _⟩
    rw [dumpSteps, List.append_assoc]
    exact deliversPages_pagereadSteps c _ hdeliver n

/-- The stream holds what it held before and so many bytes of whole pages. -/
def InPages (p : Nat) (before : List Byte) (s : State) : Prop :=
  ∃ j, s.env.stream.length = before.length + j * p

/-- A micro-step of DUMP that leads on keeps the stream in whole pages, and the rest of the micro-steps too. -/
theorem inPages_of_go {c : Config} {p : Nat} {before : List Byte} {ms : List Micro} {m : Micro} {loc l : Locals}
    {s t : State} (hm : m.ofDumpLoop = true) (he : microEffect c loc s m = .go l t)
    (hpages : DeliversPages p (m :: ms) s.obuf.length) (h : InPages p before s) :
    DeliversPages p ms t.obuf.length ∧ InPages p before t := by
  cases hdata : m.movesData with
  | false =>
    have hall := microEffect_sameData c loc s hdata
    rw [he] at hall
    have hsame : SameData s t := hall
    rw [InPages, hsame.obuf, hsame.stream]
    exact ⟨hpages.of_not_movesData hdata, h⟩
  | true =>
    cases m with
    | sample bus => cases hm
    | turnIn =>
      cases hask : s.env.link.ask.1 with
      | true =>
        rw [turnIn_goes hask] at he
        cases he
        exact ⟨hpages, h⟩
      | false =>
        rw [microEffect, tConfig_failed (s := s.setObuf []) hask] at he
        cases he
    | fetchByte =>
      cases hask : s.env.link.ask.1 with
      | true =>
        rw [fetchByte_goes hask] at he
        cases he
        refine ⟨?_, h⟩
        rw [List.length_append, State.dioAhead, Channel.length_ahead]
        exact hpages
      | false =>
        rw [microEffect, tRead_failed hask] at he
        cases he
    | deliver =>
      cases he
      obtain ⟨hlen, hrest⟩ := hpages
      obtain ⟨j, hj⟩ := h
      refine ⟨hrest, j + 1, ?_⟩
      rw [State.deliver_env, List.length_append, hj, hlen, Nat.succ_mul, Nat.add_assoc]
    | _ => cases hdata

/-- A DUMP under way whose deliveries, those made and those to come, are whole pages. -/
structure DumpInPages (c : Config) (before record : List Byte) (ms : List Micro) (loc : Locals) (s : State) : Prop
    extends DumpUnderway before record ms loc s where
  pages : DeliversPages c.pageBytes ms s.obuf.length
  whole : InPages c.pageBytes before s

/-- Where a step of a DUMP leaves it: at a Run position with the invariant, or answered with the whole pages of the record it has
handed over. -/
inductive DumpRestsInPages (c : Config) (before record : List Byte) (s : State) : Prop where
  | running (k : Nat) (loc : Locals) (hseq : s.seq = .run .dump k loc)
      (h : DumpInPages c before record ((microProgram c .dump).drop k) loc s)
  | answered (hseq : s.seq = .idle) (j : Nat) (hj : j * c.pageBytes ≤ record.length)
      (hdata : s.resp.data = record.take (j * c.pageBytes)) (hstream : s.env.stream = before ++ s.resp.data)

section
variable {c : Config} {before record : List Byte} {ms : List Micro} {loc : Locals} {s t : State}

/-- What a DUMP under way has handed over is a number of whole pages of the record. -/
theorem DumpInPages.dumped_eq (h : DumpInPages c before record ms loc s) :
    ∃ j, j * c.pageBytes ≤ record.length ∧ dumped loc s = record.take (j * c.pageBytes) ∧
      s.env.stream = before ++ dumped loc s := by
  obtain ⟨j, hj⟩ := h.whole
  have hstream := h.stream
  rw [streamAfter] at hstream
  have htake : s.env.stream = before ++ record.take (j * c.pageBytes) := by
    rw [← List.take_left (l₁ := s.env.stream), hstream, hj, List.take_length_add_append]
  have hlen := congrArg List.length hstream
  rw [List.length_append, List.length_append, hj] at hlen
  have hdumped : dumped loc s = record.take (j * c.pageBytes) := by rw [dumped, htake, h.mark, List.drop_left]
  exact ⟨j, by omega, hdumped, hdumped ▸ htake⟩

/-- It answers with that, at its end or at an error. -/
theorem DumpInPages.respond (h : DumpInPages c before record ms loc s) (hsame : t.env.stream = s.env.stream)
    (status : Status) : DumpRestsInPages c before record (t.respond ⟨status, dumped loc t⟩) := by
  obtain ⟨j, hj, hdata, hstream⟩ := h.dumped_eq
  have hdumped : dumped loc t = dumped loc s := congrArg (List.drop loc.mark) hsame
  exact .answered rfl j hj (hdumped.trans hdata) (hsame.trans (hdumped ▸ hstream))

/-- An error leaves the variables and the host's stream as they were. -/
theorem kept_of_stop {m : Micro} {status : Status} {l : Locals} (he : microEffect c loc s m = .stop status l t) :
    l = loc ∧ t.env.stream = s.env.stream := by
  have hm : m ≠ .deliver := by
    rintro rfl
    cases he
  have hstream := microEffect_sameStream hm c loc s
  have hloc := microEffect_stopsAt c loc s m
  rw [he] at hstream hloc
  exact ⟨hloc, hstream⟩

/-- The micro-steps of a DUMP, from any position, leave it at rest with its stream in whole pages. -/
theorem runMicros_dumpRestsInPages {k : Nat} (hk : (microProgram c .dump).drop k = ms)
    (h : DumpInPages c before record ms loc s) : DumpRestsInPages c before record (runMicros c .dump ms k loc s) := by
  induction ms generalizing k loc s with
  | nil => exact .running k loc rfl (by rw [hk]; exact ⟨⟨h.steps, h.mark, h.stream⟩, h.pages, h.whole⟩)
  | cons m ms ih =>
    obtain ⟨hm, hms⟩ : m.ofDumpLoop = true ∧ ms.all Micro.ofDumpLoop = true := Bool.and_eq_true_iff.1 h.steps
    have hkeeps := microEffect_keepsMarkOrEnds c loc s (m := m) (by rintro rfl; cases hm)
    cases he : microEffect c loc s m with
    | go l t =>
      rw [he] at hkeeps
      rw [runMicros_go he]
      obtain ⟨hpages, hwhole⟩ := inPages_of_go hm he h.pages h.whole
      exact ih (getElem?_of_drop_eq_cons hk).2
        ⟨⟨hms, hkeeps.trans h.mark, (streamAfter_of_go hm he ms).trans h.stream⟩, hpages, hwhole⟩
    | again l t =>
      rw [he] at hkeeps
      obtain ⟨hmark, rfl⟩ := hkeeps
      have hall := microEffect_sameData c loc s (m := .poll) rfl
      rw [he] at hall
      have hsame : SameData s t := hall
      rw [runMicros_again he]
      refine .running k l rfl (hk ▸ ⟨⟨h.steps, hmark.trans h.mark, (streamAfter_of_again he _).trans h.stream⟩, ?_, ?_⟩)
      · exact hsame.obuf ▸ h.pages
      · exact h.whole.imp fun j hj => (congrArg List.length hsame.stream).trans hj
    | finish r t =>
      rw [he] at hkeeps
      obtain ⟨a, rfl, rfl, rfl⟩ := hkeeps
      obtain rfl : a = .stream := of_decide_eq_true hm
      rw [runMicros_finish he]
      exact h.respond rfl .ok
    | stop status l t =>
      obtain ⟨rfl, hstream⟩ := kept_of_stop he
      rw [runMicros_stop he, errorData_dump]
      exact h.respond hstream status

/-- A DUMP issued: its deliveries are the pages of its loop (R215). -/
theorem perform_dumpRestsInPages (c : Config) (s : State) :
    DumpRestsInPages c s.env.stream (s.dioAhead (c.nPages * c.pageBytes)) (perform c .dump s) := by
  refine runMicros_dumpRestsInPages (k := 1) (ms := dumpSteps c 0 c.nPages ++ [.answer .stream]) (loc := dumpLocals s) rfl
    ⟨⟨?_, rfl, ?_⟩, deliversPages_dumpSteps c 0 c.nPages _, 0, ?_⟩
  · rw [List.all_append, dumpSteps_ofDumpLoop]
    rfl
  · rw [streamAfter, handsOver_dumpSteps, State.dioAhead]
  · rw [Nat.zero_mul, Nat.add_zero]

/-- A DUMP continued after a busy wait (R50). -/
theorem DumpRestsInPages.resumes {op : Instr} {k : Nat} (h : DumpRestsInPages c before record s)
    (hseq : s.seq = .run op k loc) (ht : resume c op k loc s = .next t) : DumpRestsInPages c before record t := by
  cases h with
  | running k' loc' hrun h =>
    cases hrun.symm.trans hseq
    exact eq_runMicros_of_resume ht ▸ runMicros_dumpRestsInPages rfl h
  | answered hidle => exact absurd (hidle.symm.trans hseq) Sequencer.noConfusion

end

/-- What continuing an operation keeps, a run keeps in which the reset input is at rest and the host issues nothing. -/
theorem core_run_keeps {P : State → Prop}
    (hresume : ∀ {u v op k loc}, P u → u.seq = .run op k loc → resume Config.standard op k loc u = .next v → P v)
    {n : Nat} {s t : State} (h : s.env.resetIn = []) (hs : P s) (hrun : Sys2Proof.core.run n s = .next t)
    (hprogram : t.env.program = s.env.program) : P t := by
  induction n generalizing s with
  | zero =>
    cases hrun
    exact hs
  | succ n ih =>
    obtain ⟨u, hstep, hrun⟩ := core_run_succ hrun
    obtain ⟨hu, hreset⟩ := step_program h hstep
    obtain hseq | ⟨op, k, loc, hseq⟩ := s.seq.idle_or_run
    · cases hp : s.env.program with
      | nil =>
        rw [step_wait h hseq hp] at hstep
        cases hstep
        exact ih h hs hrun hprogram
      | cons W rest =>
        have hle := core_run_program_length_le hreset hrun
        rw [hprogram, hu, programAfterTurn_idle hseq, hp] at hle
        simp at hle
    · rw [step_run h hseq] at hstep
      exact ih hreset (hresume hs hseq hstep) hrun (by rw [hprogram, hu, programAfterTurn_run hseq])

/-- A DUMP that has been issued and has answered, however it went, has answered the whole pages it handed over. -/
theorem core_run_dump_inPages {n : Nat} {s t : State} {rest : List Descriptor} (hseq : s.seq = .idle)
    (hreset : s.env.resetIn = []) (hprogram : s.env.program = encode .dump :: rest)
    (hrun : Sys2Proof.core.run n s = .next t) (hrest : t.env.program = rest) :
    DumpRestsInPages Config.standard s.env.stream (s.dioAhead (262144 * 2112)) t := by
  cases n with
  | zero =>
    cases hrun
    exact absurd (hprogram.symm.trans hrest) (by simp)
  | succ n =>
    obtain ⟨u, hstep, hrun⟩ := core_run_succ hrun
    obtain ⟨hu, hureset⟩ := step_program hreset hstep
    rw [programAfterTurn_idle hseq, hprogram] at hu
    rw [step_issue hreset hseq hprogram (decode_encode_dump rfl)] at hstep
    cases hstep
    exact core_run_keeps (fun hP hrunning hres => hP.resumes hrunning hres) hureset
      (perform_dumpRestsInPages Config.standard (s.issued rest)) hrun (hrest.trans hu.symm)

theorem take_dioAhead {s : State} {m n : Nat} (h : m ≤ n) : (s.dioAhead n).take m = s.dioAhead m := by
  obtain ⟨k, rfl⟩ := Nat.exists_eq_add_of_le h
  rw [State.dioAhead, Channel.ahead_add]
  exact List.take_left' (Channel.length_ahead ..)

/-- Settles O39: the stream only grows; a DUMP that waits has handed over the pages before; and a DUMP that has answered has
answered the whole pages it handed over. -/
theorem dumpDeliversEachPage : Obligations.DumpDeliversEachPage := by
  refine ⟨fun s t => step_streamGrown, fun i s hi hidle hf hce hre hg hr => ?_, ?_⟩
  · obtain ⟨k, loc, u, hperform, hresp, hstream⟩ := perform_dump_waits standard_wellFormed rfl hi hf hce hre hg hr
    have hreset : u.env.resetIn = s.env.resetIn := by
      have hhost := runMicros_sameHost Config.standard .dump (microProgram Config.standard .dump) 0 Locals.start s
      rw [← perform, hperform] at hhost
      exact hhost.resetIn
    refine ⟨_, (exec_idle _ hidle).trans (congrArg _ hperform), ⟨k, loc, rfl⟩, hresp, hstream, fun rest hdue => ?_⟩
    have hcut : resetDue (u.park .dump k loc) = some 0 := by rw [resetDue, State.park_env, hreset, hdue]
    exact ⟨_, (step_eq_stepWith _).trans (stepWith_reset hcut), rfl, hresp, hstream⟩
  · intro n s t rest hidle hreset hprogram hrun hrest htidle _
    cases core_run_dump_inPages hidle hreset hprogram hrun hrest with
    | running k loc hseq => exact absurd (htidle.symm.trans hseq) Sequencer.noConfusion
    | answered _ j hj hdata hstream =>
      have hpages : j * 2112 ≤ 262144 * 2112 := hj.trans_eq (Channel.length_ahead ..)
      exact ⟨hstream, j, Nat.le_of_mul_le_mul_right hpages (by decide), hdata.trans (take_dioAhead hpages)⟩

end Sys2Proof.Machine
end
